-- ==== Sys2Proof/Word.lean ====
section
/-! DEFINITION. The two machine words of the core: a byte of a frame (8 bits) and a register of the host map (16 bits). -/

namespace Sys2Proof

/-- A byte of a frame, numbered 7 (most significant) to 0 (spec/00_scope.md R12 row BYTE, R14). -/
abbrev Byte := BitVec 8

/-- A 16-bit register value, address or count (spec/00_scope.md R12 row REG_WIDTH). -/
abbrev Half := BitVec 16

end Sys2Proof
end

