-- ==== Sys2Proof/Config.lean ====
section
/-! DEFINITION. What an implementation fixes (spec/00_scope.md R12, R13; 20_memory.md R70; 93_implementation_defined.md
I13) and the free values (I2, I4, I5, I6). -/

namespace Sys2Proof

/-! The fixed rows of R12. -/

@[simp] def Config.slaveMin : Nat := 1
@[simp] def Config.slaveMax : Nat := 247
@[simp] def Config.maxReadBits : Nat := 2000
@[simp] def Config.maxReadRegs : Nat := 125
@[simp] def Config.maxWriteRegs : Nat := 123
@[simp] def Config.maxWriteBits : Nat := 2040
@[simp] def Config.valDepth : Nat := 2040
@[simp] def Config.resDepth : Nat := 2000
@[simp] def Config.txMax : Nat := 264
/-- Entries of the RXB host window (10_state.md R25), whatever RX_CAPACITY is. -/
@[simp] def Config.rxWindow : Nat := 2048
/-- The least legal RX_CAPACITY (R13). -/
@[simp] def Config.minRxCapacity : Nat := 260
/-- The greatest legal value of both parameters (R12). -/
@[simp] def Config.maxParam : Nat := 65535

/-- The rows of R12 marked "parameter": "A model takes the rows marked 'parameter' as arguments."
A machine state carries them as constant data, so that a claim about every state is a claim about every
implementation (log entry 2). -/
structure Params where
  /-- MAX_ATTEMPTS: the poll budget of one transaction. -/
  maxAttempts : Nat
  /-- RX_CAPACITY: the most bytes RXB holds. -/
  rxCapacity : Nat
  /-- POLL_INTERVAL in milliseconds. Timing only: no rule reads it, and R12 gives it no range (42_transport.md R169; log entry 21). -/
  pollIntervalMs : Nat
  deriving DecidableEq, Repr

/-- The defaults of R12. -/
def Params.default : Params := { maxAttempts := 40, rxCapacity := 2048, pollIntervalMs := 50 }

/-- FREE VALUE. The `i`-th 16-bit value drawn in the `k`-th drawing step: "any value" of I2, I4, I5 and I6. It has no
body, so no proof can know it (log entry 3). -/
opaque Config.draw (k i : Nat) : Half

/-- FREE VALUE. What the single-coil encoder would give for a value other than 0x0000 and 0x0001, where 41_codec.md R140 says
"not reached" (log entry 13). -/
opaque Config.coilCode : Half → Half

/-- CORE_BASE, the platform's address of the core. It has no default (I13), and no rule of the core reads it. -/
opaque Config.coreBase : Nat

/-- The platform address of a register of the core: the offsets of R25 are relative to CORE_BASE (20_memory.md R70). -/
def Config.platformAddress (off : Half) : Nat := Config.coreBase + off.toNat

end Sys2Proof
end

