-- ==== Sys2Proof/Syntax.lean ====
section
/-! DEFINITION. The instructions: one constructor per row of spec/opcode_table.json. A command carries the operand fields of
its tuple (30_encoding.md R80), a CTRL action none (10_state.md R26), a response class the header fields it is selected
by (R85-R87). -/

namespace Sys2Proof

/-- The five request fields of REQ and of ACT (10_state.md R21, R35-R40). -/
structure Request where
  slave  : Byte
  func   : Byte
  addr   : Half
  qty    : Half
  signed : Bool
  deriving DecidableEq, Repr

/-- The operands of a command: the command tuple without FUNC, which selects the command (30_encoding.md R80). VAL is
the machine's own array and no operand. -/
structure Operands where
  slave  : Byte
  addr   : Half
  qty    : Half
  signed : Bool
  deriving DecidableEq, Repr

/-- The 17 rows of the opcode table: eight commands, three CTRL actions, six response classes. -/
inductive Instr where
  | rdCoils (o : Operands)
  | rdDiscrete (o : Operands)
  | rdHolding (o : Operands)
  | rdInput (o : Operands)
  | wrCoil (o : Operands)
  | wrReg (o : Operands)
  | wrCoils (o : Operands)
  | wrRegs (o : Operands)
  | start
  | abort
  | clrOverrun
  /-- An exception response: bit 7 of the function byte is 1, the other seven bits are `fn` (R81, R87). -/
  | rspExc (slave : Byte) (fn : BitVec 7)
  | rspRead01 (slave bc : Byte)
  | rspRead02 (slave bc : Byte)
  | rspRead03 (slave bc : Byte)
  | rspRead04 (slave bc : Byte)
  /-- Every other function byte: bit 7 is 0, and `fn` is not 1 to 4 (R86, R95). -/
  | rspEcho (slave : Byte) (fn : BitVec 7)
  deriving DecidableEq, Repr

end Sys2Proof
end

