-- ==== Sys2Proof/WellFormed.lean ====
section
/-! DEFINITION. Which terms stand for something the spec has an encoding or a meaning for. A command's fields are
encodable at every value (R35-R39: every value "can be written and is read back unchanged"); whether a request is legal is
a check the machine makes (46_master_api.md R253), not a matter of form. -/

namespace Sys2Proof

/-- Every instruction is well formed but an echo class whose function number is 1 to 4, which the table gives to the
read classes (30_encoding.md R95; opcode_table.json row RSP_ECHO). -/
def Instr.wf : Instr → Bool
  | .rspEcho _ fn => !(decide (1 ≤ fn.toNat) && decide (fn.toNat ≤ 4))
  | .rdCoils _ | .rdDiscrete _ | .rdHolding _ | .rdInput _ => true
  | .wrCoil _ | .wrReg _ | .wrCoils _ | .wrRegs _ => true
  | .start | .abort | .clrOverrun => true
  | .rspExc _ _ | .rspRead01 _ _ | .rspRead02 _ _ | .rspRead03 _ _ | .rspRead04 _ _ => true

/-- The legal ranges of the parameters (00_scope.md R12, R13). POLL_INTERVAL has none. -/
abbrev Params.wf (p : Params) : Prop :=
  1 ≤ p.maxAttempts ∧ p.maxAttempts ≤ Config.maxParam ∧
    Config.minRxCapacity ≤ p.rxCapacity ∧ p.rxCapacity ≤ Config.maxParam

end Sys2Proof
end

