-- ==== Sys2Proof/Decode.lean ====
section
/-! DEFINITION. The decoder and the encoder of the three selector spaces of spec/opcode_table.json (30_encoding.md): the
bits of a CTRL write select actions, FUNC of a request selects a command, byte 1 of a response selects its class. -/

namespace Sys2Proof

/-- Why a selector names no instruction. -/
inductive Reject where
  /-- FUNC is none of the eight function codes (30_encoding.md R94). -/
  | illegalFunction (func : Byte)
  /-- A response of fewer than 2 bytes has no function byte (44_response_assembler.md R204). -/
  | noFunctionByte
  /-- A read response of exactly 2 bytes has no ByteCount (R204). -/
  | noByteCount
  deriving DecidableEq, Repr

/-- What an instruction is encoded as: the value of a CTRL write, the contents of the request registers, or the first
bytes of a response. -/
inductive Selector where
  | ctrl (value : Half)
  | request (r : Request)
  | response (bytes : List Byte)
  deriving DecidableEq, Repr

/-- The request a command tuple stands for once FUNC is fixed (30_encoding.md R80). -/
def Operands.request (o : Operands) (func : Byte) : Request :=
  { slave := o.slave, func := func, addr := o.addr, qty := o.qty, signed := o.signed }

/-- The operand fields of a request. -/
def Request.operands (r : Request) : Operands :=
  { slave := r.slave, addr := r.addr, qty := r.qty, signed := r.signed }

/-- The actions of one CTRL write, in the order in which they act: bit 2, bit 1, bit 0 (46_master_api.md R264). Bits
[15:3] are ignored (10_state.md R26). -/
def ctrlActions (v : Half) : List Instr :=
  (if v.getLsbD 2 then [.clrOverrun] else []) ++
    (if v.getLsbD 1 then [.abort] else []) ++
    (if v.getLsbD 0 then [.start] else [])

/-- The command a request selects, by exact match on all 8 bits of FUNC (30_encoding.md R93, R94). -/
def decodeRequest (r : Request) : Except Reject Instr :=
  if r.func = 0x01#8 then .ok (.rdCoils r.operands)
  else if r.func = 0x02#8 then .ok (.rdDiscrete r.operands)
  else if r.func = 0x03#8 then .ok (.rdHolding r.operands)
  else if r.func = 0x04#8 then .ok (.rdInput r.operands)
  else if r.func = 0x05#8 then .ok (.wrCoil r.operands)
  else if r.func = 0x06#8 then .ok (.wrReg r.operands)
  else if r.func = 0x0F#8 then .ok (.wrCoils r.operands)
  else if r.func = 0x10#8 then .ok (.wrRegs r.operands)
  else .error (.illegalFunction r.func)

/-- The low seven bits of a function byte (30_encoding.md R81). -/
def functionNumber (fc : Byte) : BitVec 7 := fc.extractLsb' 0 7

/-- A function byte from its exception flag E (bit 7) and its function number (30_encoding.md R81). -/
def functionByte (e : Bool) (fn : BitVec 7) : Byte := BitVec.ofBool e ++ fn

/-- The class of a response, and the bytes after the header that selects it (30_encoding.md R95; 44_response_assembler.md
R200-R204): bit 7 of byte 1 first, then the read codes 1 to 4 with the ByteCount at byte 2, else the echo class. -/
def decodeResponse : List Byte → Except Reject (Instr × List Byte)
  | slave :: fc :: rest =>
    if fc.getLsbD 7 then .ok (.rspExc slave (functionNumber fc), rest)
    else if fc = 0x01#8 ∨ fc = 0x02#8 ∨ fc = 0x03#8 ∨ fc = 0x04#8 then
      match rest with
      | bc :: rest' =>
        .ok (if fc = 0x01#8 then .rspRead01 slave bc
          else if fc = 0x02#8 then .rspRead02 slave bc
          else if fc = 0x03#8 then .rspRead03 slave bc
          else .rspRead04 slave bc, rest')
      | [] => .error .noByteCount
    else .ok (.rspEcho slave (functionNumber fc), rest)
  | _ => .error .noFunctionByte

/-- The instructions a selector stands for. A request and a response stand for one; one CTRL write stands for up to
three, in the order in which they act. -/
def decode : Selector → Except Reject (List Instr)
  | .ctrl v => .ok (ctrlActions v)
  | .request r => (decodeRequest r).map fun i => [i]
  | .response bs => (decodeResponse bs).map fun p => [p.1]

/-- The encoding of an instruction, from the opcode map of 30_encoding.md R93, the CTRL bits of 10_state.md R26 and the
response formats of 30_encoding.md R85-R87. -/
def encode : Instr → Selector
  | .rdCoils o => .request (o.request 0x01#8)
  | .rdDiscrete o => .request (o.request 0x02#8)
  | .rdHolding o => .request (o.request 0x03#8)
  | .rdInput o => .request (o.request 0x04#8)
  | .wrCoil o => .request (o.request 0x05#8)
  | .wrReg o => .request (o.request 0x06#8)
  | .wrCoils o => .request (o.request 0x0F#8)
  | .wrRegs o => .request (o.request 0x10#8)
  | .start => .ctrl 0x0001#16
  | .abort => .ctrl 0x0002#16
  | .clrOverrun => .ctrl 0x0004#16
  | .rspExc slave fn => .response [slave, functionByte true fn]
  | .rspRead01 slave bc => .response [slave, 0x01#8, bc]
  | .rspRead02 slave bc => .response [slave, 0x02#8, bc]
  | .rspRead03 slave bc => .response [slave, 0x03#8, bc]
  | .rspRead04 slave bc => .response [slave, 0x04#8, bc]
  | .rspEcho slave fn => .response [slave, functionByte false fn]

/-- The request whose FUNC is `f` and whose other fields are all 0. -/
def bareRequest (f : Byte) : Request :=
  { slave := 0#8, func := f, addr := 0#16, qty := 0#16, signed := false }

/-- The instruction the decoder reads from a bare word of the opcode table. A word of 16 bits is the value of a CTRL
write (the first action it holds). A word of 8 bits is a function code of a command or, where no command has it, byte 1
of a response whose other bytes are 0. The table's three selector spaces share the 8-bit words 1 to 4, and a bare word does
not say which space it is from: it is read as a command (log entry 9). -/
def decodeTableWord (nbits w : Nat) : Option Instr :=
  if nbits = 16 then (ctrlActions (BitVec.ofNat 16 w)).head?
  else if nbits = 8 then
    match decodeRequest (bareRequest (BitVec.ofNat 8 w)) with
    | .ok i => some i
    | .error _ =>
      match decodeResponse [0#8, BitVec.ofNat 8 w, 0#8] with
      | .ok (i, _) => some i
      | .error _ => none
  else none

end Sys2Proof
end

