-- ==== Sys2Proof/Machine/State.lean ====
section
/-! DEFINITION. The state of the core (spec/10_state.md R21), the events of its three agents and of reset, the reasons a
step stops, and the state after reset (R51). All of it is plain data. -/

namespace Sys2Proof.Machine

/-- PHASE, the sequencer's control state (10_state.md R23). The reserved values 6 and 7 are never produced and are left
out (93_implementation_defined.md I7). -/
inductive Phase where
  | idle
  | sending
  | awaiting
  | validating
  | completed
  | failed
  deriving DecidableEq, Repr

/-- STATUS.CODE, the outcome of the current or last transaction (10_state.md R28). The reserved values 9 to 15 are never
produced and are left out (93_implementation_defined.md I7). -/
inductive OutcomeCode where
  | ok
  | invalidArgument
  | noResponse
  | frameCorruption
  | addressMismatch
  | slaveException
  | decodeError
  | writeNotConfirmed
  | aborted
  deriving DecidableEq, Repr

/-- The entries of VAL that the Host has written since reset, as (index, value) pairs in one canonical form (`Memory.wf`).
VAL is the core's only memory the Host can write. An entry that is not listed has no known value: reading it draws (10_state.md R41; log
entry 4). -/
abbrev Memory := List (Nat × Half)

/-- The canonical form: indexes strictly rising, each below VAL_DEPTH. -/
abbrev Memory.wf (m : Memory) : Prop :=
  m.Pairwise (fun a b => a.1 < b.1) ∧ ∀ c ∈ m, c.1 < Config.valDepth

/-- One step of an agent, or a reset (10_state.md R20; 70_reset_and_hazards.md R340). Host offsets are relative to
CORE_BASE (20_memory.md R70), and `width` is in bytes. -/
inductive Event where
  /-- Host: MemWrite(off, width, value). -/
  | hostWrite (off : Half) (width : Nat) (value : Half)
  /-- Host: MemRead(off, width). -/
  | hostRead (off : Half) (width : Nat)
  /-- Host: WAIT, the reads MemRead(0x0002, 2) that go on until bit 3 (DONE) of the word read is 1 (30_encoding.md R99). One step
  of it is one such read (log entry 22). -/
  | hostWait
  /-- Line: LINE_DELIVER(bytes) (42_transport.md R160). -/
  | deliver (bytes : List Byte)
  /-- Core: its enabled step, SEND, POLL or VALIDATE, if it has one. -/
  | core
  /-- Reset, an event outside the three agents. -/
  | reset
  deriving DecidableEq, Repr

/-- Why the machine stops with a fault: it has no reason to. Every failure of the spec is an outcome in CODE, after which the
machine goes on (60_exceptions.md R300, R304), so the type has no value and no step can stop with one. -/
inductive Fault where
  deriving DecidableEq, Repr

/-- Why the model gives an instruction no meaning. -/
inductive Refusal where
  /-- The instruction has no meaning yet; raised by `exec`. Safe. No arm raises it: every instruction has its meaning. -/
  | notModelled (mnemonic : String)
  deriving DecidableEq, Repr

/-- The state of the core: the record of 10_state.md R21, field by field, then the model's own four fields. -/
structure State where
  phase     : Phase
  code      : OutcomeCode
  excCode   : Byte
  confirmed : Bool
  overrun   : Bool
  resValid  : Bool
  rxovf     : Bool
  attempts  : Half
  crc       : Half
  req       : Request
  act       : Request
  val       : Memory
  /-- RES. It is only ever written as a prefix, so the entries written since reset are a list (log entry 5). -/
  res       : List Half
  txb       : List Byte
  rxb       : List Byte
  lineRxq   : List Byte
  /-- LINE_TX, oldest first. -/
  lineTx    : List (List Byte)
  /-- MODEL'S OWN. The implementation parameters; no step changes them (log entry 2). -/
  params    : Params
  /-- MODEL'S OWN. The steps of the agents still to come, next first: the interleaving, and the data the Host and the Line
  choose (log entry 1). -/
  inbox     : List Event
  /-- MODEL'S OWN. What the last Host read returned (log entry 6). -/
  hostData  : Option Half
  /-- MODEL'S OWN. How many steps have drawn a free value; the next draw is `Config.draw draws` (log entry 3). -/
  draws     : Nat
  deriving DecidableEq, Repr

/-- A request of zeros (R51). -/
def zeroRequest : Request :=
  { slave := 0#8, func := 0#8, addr := 0#16, qty := 0#16, signed := false }

/-- The state after reset (10_state.md R51; 70_reset_and_hazards.md R340), with the default parameters of 00_scope.md R12
and no agent's step pending. -/
def State.reset : State :=
  { phase := .idle
    code := .ok
    excCode := 0#8
    confirmed := false
    overrun := false
    resValid := false
    rxovf := false
    attempts := 0#16
    crc := 0xFFFF#16
    req := zeroRequest
    act := zeroRequest
    val := []
    res := []
    txb := []
    rxb := []
    lineRxq := []
    lineTx := []
    params := Params.default
    inbox := []
    hostData := none
    draws := 0 }

end Sys2Proof.Machine
end

