-- ==== Sys2Proof/Machine/Ops.lean ====
section
/-! DEFINITION. The shared operations: byte order, the VAL memory, the RES array, the failure primitive and the way out of a
failure. -/

namespace Sys2Proof.Machine

/-- `be16(v)`: high byte first (spec/00_scope.md R15). -/
def be16 (v : Half) : List Byte := [v.extractLsb' 8 8, v.extractLsb' 0 8]

/-- `le16(v)`: low byte first (R15). -/
def le16 (v : Half) : List Byte := [v.extractLsb' 0 8, v.extractLsb' 8 8]

/-- The 16-bit value `hi * 256 + lo`. -/
def word16 (hi lo : Byte) : Half := hi ++ lo

/-- `ceil8(n) = (n + 7) div 8` (R15). -/
def ceil8 (n : Nat) : Nat := (n + 7) / 8

/-- The value delivered to the caller for a result word: two's complement if SIGNED = 1, unsigned otherwise
(41_codec.md R147; 00_scope.md R16). -/
def callerValue (signed : Bool) (w : Half) : Int := if signed then w.toInt else (w.toNat : Int)

/-- VAL[i], if the Host has written it since reset (10_state.md R41). -/
def Memory.read : Memory → Nat → Option Half
  | [], _ => none
  | (j, v) :: m, i => if i = j then some v else Memory.read m i

/-- VAL[i] <- v, in the canonical form. -/
def Memory.write : Memory → Nat → Half → Memory
  | [], i, v => [(i, v)]
  | (j, w) :: m, i, v =>
    if i < j then (i, v) :: (j, w) :: m
    else if i = j then (i, v) :: m
    else (j, w) :: Memory.write m i v

/-- VAL as one step sees it: the written entries, and for every other entry a value drawn for this step
(10_state.md R41; 93_implementation_defined.md I4). -/
def valView (s : State) (i : Nat) : Half := (s.val.read i).getD (Config.draw s.draws i)

/-- RES[0..len(ws)) <- ws; the later entries keep their content (41_codec.md R145, R148). -/
def writeResults (ws res : List Half) : List Half := ws ++ res.drop ws.length

/-- `fail(c)`, the failure primitive: it writes CODE and PHASE and nothing else, and ends the step
(60_exceptions.md R304, R315). -/
def fail (c : OutcomeCode) (s : State) : State := { s with code := c, phase := .failed }

/-- The end of a transaction in phase COMPLETED with outcome `c` (45_validator.md R227, R228). -/
def completeWith (c : OutcomeCode) (s : State) : State := { s with code := c, phase := .completed }

/-- What an accepted START clears, and the latch of the request `r` into ACT (46_master_api.md R252). It is the only way out
of a done phase besides reset, and it restores nothing (60_exceptions.md R317). The step reads VAL, so it is a drawing
step. -/
def clearForStart (r : Request) (s : State) : State :=
  { s with
    act := r
    code := .ok
    excCode := 0#8
    confirmed := false
    resValid := false
    rxovf := false
    attempts := 0#16
    rxb := []
    draws := s.draws + 1 }

/-- Reset: every piece of the core's state to its value of 10_state.md R51, whatever the phase; the parameters "are
configuration and are not changed by reset" (70_reset_and_hazards.md R340). The steps still to come, what the Host has read
and the count of draws are outside the core (log entry 14). -/
def resetCore (s : State) : State :=
  { State.reset with params := s.params, inbox := s.inbox, hostData := s.hostData, draws := s.draws }

end Sys2Proof.Machine
end

