-- ==== Sys2Proof/Machine/Codec.lean ====
section
/-! DEFINITION. The Codec: payload encoders and decoders (spec/41_codec.md). -/

namespace Sys2Proof.Machine

/-- encode_write_single_coil(v) (R140): 0xFF00 for 0x0001 and 0x0000 for 0x0000. START refuses every other value before the
encoder runs ("otherwise: not reached"); for one the code is a free value (log entry 13). -/
def encodeCoil (v : Half) : Half :=
  if v = 0x0001#16 then 0xFF00#16 else if v = 0x0000#16 then 0x0000#16 else Config.coilCode v

/-- encode_single_register(v) (R141). -/
def encodeRegister (v : Half) : Half := v

/-- encode_registers(w) (R142). -/
def encodeRegisters (ws : List Half) : List Byte := ws.flatMap be16

/-- The byte whose bit `k` is `f k`. -/
def packByte (f : Nat → Bool) : Byte :=
  BitVec.ofBoolListLE [f 0, f 1, f 2, f 3, f 4, f 5, f 6, f 7]

/-- pack_coils(v) (R143): bit `k` of byte `i` is `v[8i+k]`, and 0 beyond the end. -/
def packCoils (vs : List Bool) : List Byte :=
  (List.range (ceil8 vs.length)).map fun i => packByte fun k => vs.getD (8 * i + k) false

/-- decode_registers(p, count) (R145, R146): `none` is the outcome DECODE_ERROR. -/
def decodeRegisters (p : List Byte) (count : Nat) : Option (List Half) :=
  if p.length % 2 ≠ 0 ∨ p.length / 2 ≠ count then none
  else some ((List.range count).map fun i => word16 (p.getD (2 * i) 0#8) (p.getD (2 * i + 1) 0#8))

/-- The RES word of a coil or discrete input (10_state.md R42). -/
def coilWord (b : Bool) : Half := if b then 0x0001#16 else 0x0000#16

/-- unpack_coils(p, count) (R148): `none` is the outcome DECODE_ERROR. -/
def unpackCoils (p : List Byte) (count : Nat) : Option (List Half) :=
  if p.length < ceil8 count then none
  else some ((List.range count).map fun i => coilWord ((p.getD (i / 8) 0#8).getLsbD (i % 8)))

end Sys2Proof.Machine
end

