-- ==== Sys2Proof/Machine/Operands.lean ====
section
/-! DEFINITION. The operand forms of the commands: the bounds check of START (spec/46_master_api.md R253), the wire value
and the payload of a request (30_encoding.md R89-R91), and the value an echo must carry (45_validator.md R232). -/

namespace Sys2Proof.Machine

/-- FUNC is a read: 1 to 4. -/
def isRead (func : Byte) : Bool := func == 0x01#8 || func == 0x02#8 || func == 0x03#8 || func == 0x04#8

/-- FUNC is a write: 5, 6, 15 or 16. -/
def isWrite (func : Byte) : Bool := func == 0x05#8 || func == 0x06#8 || func == 0x0F#8 || func == 0x10#8

/-- A value of the form CoilValue: 0x0000 or 0x0001. -/
def isCoilValue (v : Half) : Bool := v == 0x0000#16 || v == 0x0001#16

/-- The bounds on SLAVE and on QTYVAL per function code (R253), all of the check but the FC15 coil values. -/
def boundsOk (r : Request) : Bool :=
  let n := r.qty.toNat
  decide (Config.slaveMin ≤ r.slave.toNat ∧ r.slave.toNat ≤ Config.slaveMax) &&
    (if r.func = 0x01#8 ∨ r.func = 0x02#8 then decide (1 ≤ n ∧ n ≤ Config.maxReadBits)
     else if r.func = 0x03#8 ∨ r.func = 0x04#8 then decide (1 ≤ n ∧ n ≤ Config.maxReadRegs)
     else if r.func = 0x05#8 then isCoilValue r.qty
     else if r.func = 0x06#8 then true
     else if r.func = 0x0F#8 then decide (n ≤ Config.maxWriteBits)
     else if r.func = 0x10#8 then decide (1 ≤ n ∧ n ≤ Config.maxWriteRegs)
     else false)

/-- The FC15 coil values: VAL[i] is 0x0000 or 0x0001 for every i < QTYVAL (R253). -/
def coilsOk (r : Request) (val : Nat → Half) : Bool :=
  if r.func = 0x0F#8 then (List.range r.qty.toNat).all fun i => isCoilValue (val i) else true

/-- args_ok(ACT, VAL) (R253). -/
def argsOk (r : Request) (val : Nat → Half) : Bool := boundsOk r && coilsOk r val

/-- The wire value of the single-write formats (30_encoding.md R90), and for the multiple writes the count: `sent(ACT)`
(45_validator.md R232). -/
def sent (r : Request) : Half :=
  if r.func = 0x05#8 then encodeCoil r.qty
  else if r.func = 0x06#8 then encodeRegister r.qty
  else r.qty

/-- DATA of RQ-WMULTI for FC15: pack_coils(VAL[0..n)) (30_encoding.md R91). -/
def coilData (n : Nat) (val : Nat → Half) : List Byte :=
  packCoils ((List.range n).map fun i => val i == 0x0001#16)

/-- DATA of RQ-WMULTI for FC16: encode_registers(VAL[0..n)) (30_encoding.md R91). -/
def registerData (n : Nat) (val : Nat → Half) : List Byte :=
  encodeRegisters ((List.range n).map val)

/-- The length of a response's header: 3 bytes for a read, 2 for a write (45_validator.md R225). -/
def headerLength (func : Byte) : Nat := if isRead func then 3 else 2

end Sys2Proof.Machine
end

