-- ==== Sys2Proof/Machine/FrameBuilder.lean ====
section
/-! DEFINITION. The Frame Builder: the request encoder (spec/43_frame_builder.md). -/

namespace Sys2Proof.Machine

/-- PDU of a read request (R181). -/
def pduRead (r : Request) : List Byte := [r.func] ++ be16 r.addr ++ be16 r.qty

/-- PDU of a single write (R182, R183). -/
def pduSingle (r : Request) : List Byte := [r.func] ++ be16 r.addr ++ be16 (sent r)

/-- PDU of write multiple coils (R185, R144). -/
def pduCoils (r : Request) (val : Nat → Half) : List Byte :=
  [r.func] ++ be16 r.addr ++ be16 r.qty ++ [BitVec.ofNat 8 (ceil8 r.qty.toNat)] ++ coilData r.qty.toNat val

/-- PDU of write multiple registers (R184, R144). -/
def pduRegisters (r : Request) (val : Nat → Half) : List Byte :=
  [r.func] ++ be16 r.addr ++ be16 r.qty ++ [BitVec.ofNat 8 (2 * r.qty.toNat)] ++ registerData r.qty.toNat val

/-- The PDU per function code (R181-R185). The builder runs only on a request that passed `argsOk`, so FUNC is one of the
eight codes (R188). -/
def pdu (r : Request) (val : Nat → Half) : List Byte :=
  if isRead r.func then pduRead r
  else if r.func = 0x0F#8 then pduCoils r val
  else if r.func = 0x10#8 then pduRegisters r val
  else pduSingle r

/-- `body = [SLAVE] ++ PDU` (R180). -/
def requestBody (r : Request) (val : Nat → Half) : List Byte := [r.slave] ++ pdu r val

/-- build(ACT, VAL) (R180, R186): TXB is the body and its CRC, and CRC is left holding the CRC of the body. -/
def buildFrame (r : Request) (val : Nat → Half) (s : State) : State :=
  { s with txb := withCrc (requestBody r val), crc := crc16 (requestBody r val) }

end Sys2Proof.Machine
end

