-- ==== Sys2Proof/Machine/Flags.lean ====
section
/-! DEFINITION. The fields of STATUS: the numbers of PHASE and CODE, DONE, and the register as the Host reads it
(spec/10_state.md R23, R24, R27-R29). -/

namespace Sys2Proof.Machine

/-- The 3-bit encoding of PHASE (R23). -/
def Phase.number : Phase → BitVec 3
  | .idle => 0#3
  | .sending => 1#3
  | .awaiting => 2#3
  | .validating => 3#3
  | .completed => 4#3
  | .failed => 5#3

/-- The 4-bit encoding of CODE (R28). -/
def OutcomeCode.number : OutcomeCode → BitVec 4
  | .ok => 0#4
  | .invalidArgument => 1#4
  | .noResponse => 2#4
  | .frameCorruption => 3#4
  | .addressMismatch => 4#4
  | .slaveException => 5#4
  | .decodeError => 6#4
  | .writeNotConfirmed => 7#4
  | .aborted => 8#4

/-- A phase is busy when it is SENDING, AWAITING or VALIDATING (R24). -/
def Phase.busy : Phase → Bool
  | .sending | .awaiting | .validating => true
  | .idle | .completed | .failed => false

/-- A phase is done when it is COMPLETED or FAILED; STATUS.DONE (R24, R29). -/
def Phase.done : Phase → Bool
  | .completed | .failed => true
  | .idle | .sending | .awaiting | .validating => false

/-- The STATUS register (R27): [2:0] PHASE, [3] DONE, [7:4] CODE, [8] CONFIRMED, [9] OVERRUN, [10] RES_VALID, [11] RXOVF,
[15:12] read 0. -/
def statusWord (s : State) : Half :=
  0#4 ++ BitVec.ofBool s.rxovf ++ BitVec.ofBool s.resValid ++ BitVec.ofBool s.overrun ++
    BitVec.ofBool s.confirmed ++ s.code.number ++ BitVec.ofBool s.phase.done ++ s.phase.number

end Sys2Proof.Machine
end

