-- ==== Sys2Proof/Machine/Detector.lean ====
section
/-! DEFINITION. The response-completion detector (spec/44_response_assembler.md) and the meanings of the six response
classes of the opcode table. -/

namespace Sys2Proof.Machine

/-- complete(buf), the completion predicate (R200). It depends on the buffer alone (R205). -/
def isComplete (buf : List Byte) : Bool :=
  match buf with
  | _ :: fc :: rest =>
    if fc.getLsbD 7 then decide (5 ≤ buf.length)
    else if 1 ≤ fc.toNat ∧ fc.toNat ≤ 4 then
      match rest with
      | bc :: _ => decide (bc.toNat + 5 ≤ buf.length)
      | [] => false
    else decide (8 ≤ buf.length)
  | _ => false

/-- The end of a POLL: "if complete(rxb') or att' = MAX_ATTEMPTS then PHASE <- VALIDATING" (42_transport.md R163, R166), on
the state in which RXB and ATTEMPTS already have their new values. -/
def closePoll (isDone : Bool) (s : State) : State :=
  if isDone || s.attempts.toNat == s.params.maxAttempts then { s with phase := .validating } else s

/-- A response that is complete once RXB holds `bound` bytes, in the POLL that classifies it. Outside phase AWAITING no POLL
happens (42_transport.md R170), and the predicate writes no state (R200): then nothing changes (log entry 12). -/
def detectAt (bound : Nat) (s : State) : State :=
  match s.phase with
  | .awaiting => closePoll (decide (bound ≤ s.rxb.length)) s
  | .idle | .sending | .validating | .completed | .failed => s

/-- The length of a read response whose ByteCount is `bc` (R202; 90_conflicts.md C1). -/
def readLength (bc : Byte) : Nat := bc.toNat + 5

/-- RSP_EXC: complete once there are at least 5 bytes; neither the slave nor the low 7 bits are checked (R201). -/
def execRspExc (_slave : Byte) (_fn : BitVec 7) (s : State) : Host.Outcome State Fault Refusal :=
  .next (detectAt 5 s)

/-- RSP_READ_01: complete once there are at least BC + 5 bytes (R202). -/
def execRspRead01 (_slave bc : Byte) (s : State) : Host.Outcome State Fault Refusal :=
  .next (detectAt (readLength bc) s)

/-- RSP_READ_02: complete once there are at least BC + 5 bytes (R202). -/
def execRspRead02 (_slave bc : Byte) (s : State) : Host.Outcome State Fault Refusal :=
  .next (detectAt (readLength bc) s)

/-- RSP_READ_03: complete once there are at least BC + 5 bytes (R202). -/
def execRspRead03 (_slave bc : Byte) (s : State) : Host.Outcome State Fault Refusal :=
  .next (detectAt (readLength bc) s)

/-- RSP_READ_04: complete once there are at least BC + 5 bytes (R202). -/
def execRspRead04 (_slave bc : Byte) (s : State) : Host.Outcome State Fault Refusal :=
  .next (detectAt (readLength bc) s)

/-- RSP_ECHO: complete once there are at least 8 bytes (R203). -/
def execRspEcho (_slave : Byte) (_fn : BitVec 7) (s : State) : Host.Outcome State Fault Refusal :=
  .next (detectAt 8 s)

end Sys2Proof.Machine
end

