-- ==== Sys2Proof/Machine/Transport.lean ====
section
/-! DEFINITION. The Transport: the Line's delivery, SEND and POLL (spec/42_transport.md). -/

namespace Sys2Proof.Machine

/-- LINE_DELIVER(d) (R160): enabled in every phase. -/
def deliver (d : List Byte) (s : State) : State := { s with lineRxq := s.lineRxq ++ d }

/-- SEND (R162): flush, then emit TXB whole. -/
def send (s : State) : State :=
  { s with
    lineRxq := []
    lineTx := s.lineTx ++ [s.txb]
    rxb := []
    attempts := 0#16
    rxovf := false
    phase := .awaiting }

/-- The receiving half of POLL (R163-R166): every byte of LINE_RXQ is taken, RXB takes them in order up to RX_CAPACITY, and
the poll is counted. -/
def receive (s : State) : State :=
  { s with
    lineRxq := []
    rxb := s.rxb ++ s.lineRxq.take (s.params.rxCapacity - s.rxb.length)
    rxovf := s.rxovf || decide (s.params.rxCapacity - s.rxb.length < s.lineRxq.length)
    attempts := s.attempts + 1#16 }

/-- POLL (R163): receive, then enter VALIDATING if the buffer is complete or the budget is spent. -/
def poll (s : State) : State := closePoll (isComplete (receive s).rxb) (receive s)

end Sys2Proof.Machine
end

