-- ==== Sys2Proof/Machine/Validator.lean ====
section
/-! DEFINITION. The Validator and the response decoder (spec/45_validator.md). -/

namespace Sys2Proof.Machine

/-- Step 5: the payload `r[h .. n-2)` (R225); empty when n - 2 <= h. -/
def payload (h : Nat) (r : List Byte) : List Byte := (crcBody r).drop h

/-- echo_ok(p) (R228): the first four payload bytes are the address and the sent value; later bytes are ignored. -/
def echoOk (r : Request) (p : List Byte) : Bool :=
  decide (4 ≤ p.length) &&
    decide (word16 (p.getD 0 0#8) (p.getD 1 0#8) = r.addr) &&
    decide (word16 (p.getD 2 0#8) (p.getD 3 0#8) = sent r)

/-- The end of a read whose decoder gave `d`: `none` fails with DECODE_ERROR and writes no RES entry, `some ws` writes RES
and completes (41_codec.md R146, R148; R227). -/
def finishRead (d : Option (List Half)) (s : State) : State :=
  match d with
  | none => fail .decodeError s
  | some ws => completeWith .ok { s with res := writeResults ws s.res, resValid := true }

/-- The decoder of FC1 and FC2 (R220). -/
def finishCoils (p : List Byte) (s : State) : State := finishRead (unpackCoils p s.act.qty.toNat) s

/-- The decoder of FC3 and FC4 (R220). -/
def finishRegisters (p : List Byte) (s : State) : State := finishRead (decodeRegisters p s.act.qty.toNat) s

/-- The write confirmation (R228): a mismatch completes too, with CONFIRMED = 0. -/
def finishWrite (p : List Byte) (s : State) : State :=
  if echoOk s.act p then completeWith .ok { s with confirmed := true }
  else completeWith .writeNotConfirmed { s with confirmed := false }

/-- The end of VALIDATE where the case on ACT.FUNC has no branch for the code (R220), which only states no run reaches could
hold (46_master_api.md R253). VALIDATE leaves COMPLETED or FAILED (46_master_api.md R251), and the spec does not say which, nor
the code: they are a free value among the outcomes that leave one of the two (log entry 15). -/
def finishUnlisted (_ : List Byte) (s : State) : State :=
  let d := Config.draw s.draws 3
  let t := { s with draws := s.draws + 1 }
  if d.getLsbD 0 then completeWith (if d.getLsbD 1 then .ok else .writeNotConfirmed) t
  else fail (if d.getLsbD 1 then .decodeError else .invalidArgument) t

/-- The exception code `r[2]`. Every buffer that reaches step 4 has it (R229); for a shorter one, which only states no run
reaches could hold, it is a free value (log entry 13). -/
def exceptionByte (s : State) : Byte := (s.rxb[2]?).getD ((Config.draw s.draws 2).setWidth 8)

/-- VALIDATE (R220) with the branch `finish` of the case on ACT.FUNC. The checks run in the fixed order, and the first that
fails decides the outcome (R230). -/
def validate (finish : List Byte → State → State) (s : State) : State :=
  if s.rxb.length = 0 then fail .noResponse s
  else if s.rxb.length = 1 then fail .frameCorruption s
  else
    let t := { s with crc := crc16 (crcBody s.rxb) }
    if t.crc ≠ trailer s.rxb then fail .frameCorruption t
    else if s.rxb.getD 0 0#8 ≠ s.act.slave then fail .addressMismatch t
    else if s.rxb.getD 1 0#8 = s.act.func ||| 0x80#8 then
      fail .slaveException { t with excCode := exceptionByte s }
    else finish (payload (headerLength s.act.func) s.rxb) t

end Sys2Proof.Machine
end

