-- ==== Sys2Proof/Machine/Commands.lean ====
section
/-! DEFINITION. The eight commands (spec/46_master_api.md R250, R254-R261). A command is a transaction of several steps, with
PHASE as its position; its meaning here is its next step from the present phase (log entry 11). -/

namespace Sys2Proof.Machine

/-- The START of the request `r` (R252): refused with OVERRUN while busy; else latched, checked before any I/O, and either
built into TXB with PHASE = SENDING, or ended in FAILED with INVALID_ARGUMENT and TXB empty. -/
def issue (r : Request) (s : State) : State :=
  if s.phase.busy then { s with overrun := true }
  else if argsOk r (valView s) then
    { buildFrame r (valView s) (clearForStart r s) with phase := .sending }
  else fail .invalidArgument { clearForStart r s with txb := [] }

/-- The next step of the transaction of a command (R250): START from a phase that is not busy, SEND, POLL, and VALIDATE
with the command's own decoder. The operands are latched in ACT at START, and the later steps read ACT (10_state.md R40). -/
def commandStep (r : Request) (finish : List Byte → State → State) (s : State) : State :=
  match s.phase with
  | .idle | .completed | .failed => issue r s
  | .sending => send s
  | .awaiting => poll s
  | .validating => validate finish s

/-- RD_COILS, FC 0x01 (R254). -/
def execRdCoils (o : Operands) (s : State) : Host.Outcome State Fault Refusal :=
  .next (commandStep (o.request 0x01#8) finishCoils s)

/-- RD_DISCRETE, FC 0x02 (R255). -/
def execRdDiscrete (o : Operands) (s : State) : Host.Outcome State Fault Refusal :=
  .next (commandStep (o.request 0x02#8) finishCoils s)

/-- RD_HOLDING, FC 0x03 (R256). -/
def execRdHolding (o : Operands) (s : State) : Host.Outcome State Fault Refusal :=
  .next (commandStep (o.request 0x03#8) finishRegisters s)

/-- RD_INPUT, FC 0x04 (R257). -/
def execRdInput (o : Operands) (s : State) : Host.Outcome State Fault Refusal :=
  .next (commandStep (o.request 0x04#8) finishRegisters s)

/-- WR_COIL, FC 0x05 (R258). -/
def execWrCoil (o : Operands) (s : State) : Host.Outcome State Fault Refusal :=
  .next (commandStep (o.request 0x05#8) finishWrite s)

/-- WR_REG, FC 0x06 (R259). -/
def execWrReg (o : Operands) (s : State) : Host.Outcome State Fault Refusal :=
  .next (commandStep (o.request 0x06#8) finishWrite s)

/-- WR_COILS, FC 0x0F (R260). -/
def execWrCoils (o : Operands) (s : State) : Host.Outcome State Fault Refusal :=
  .next (commandStep (o.request 0x0F#8) finishWrite s)

/-- WR_REGS, FC 0x10 (R261). -/
def execWrRegs (o : Operands) (s : State) : Host.Outcome State Fault Refusal :=
  .next (commandStep (o.request 0x10#8) finishWrite s)

end Sys2Proof.Machine
end

