-- ==== Sys2Proof/Machine/Control.lean ====
section
/-! DEFINITION. The three CTRL actions (spec/46_master_api.md R252, R262, R263). -/

namespace Sys2Proof.Machine

/-- START: the request is the one in REQ (R252). -/
def execStart (s : State) : Host.Outcome State Fault Refusal := .next (issue s.req s)

/-- ABORT: in AWAITING only, discard RXB and LINE_RXQ and end the transaction in FAILED with ABORTED (R262). -/
def execAbort (s : State) : Host.Outcome State Fault Refusal :=
  match s.phase with
  | .awaiting => .next (fail .aborted { s with rxb := [], lineRxq := [] })
  | .idle | .sending | .validating | .completed | .failed => .next s

/-- CLR_OVERRUN: legal in every phase (R263). -/
def execClrOverrun (s : State) : Host.Outcome State Fault Refusal := .next { s with overrun := false }

end Sys2Proof.Machine
end

