-- ==== Sys2Proof/Machine/Dispatch.lean ====
section
/-! DEFINITION. One arm per instruction. -/

namespace Sys2Proof.Machine

def exec (i : Instr) (s : State) : Host.Outcome State Fault Refusal :=
  match i with
  | .rdCoils o => Sys2Proof.Machine.execRdCoils o s
  | .rdDiscrete o => Sys2Proof.Machine.execRdDiscrete o s
  | .rdHolding o => Sys2Proof.Machine.execRdHolding o s
  | .rdInput o => Sys2Proof.Machine.execRdInput o s
  | .wrCoil o => Sys2Proof.Machine.execWrCoil o s
  | .wrReg o => Sys2Proof.Machine.execWrReg o s
  | .wrCoils o => Sys2Proof.Machine.execWrCoils o s
  | .wrRegs o => Sys2Proof.Machine.execWrRegs o s
  | .start => Sys2Proof.Machine.execStart s
  | .abort => Sys2Proof.Machine.execAbort s
  | .clrOverrun => Sys2Proof.Machine.execClrOverrun s
  | .rspExc slave fn => Sys2Proof.Machine.execRspExc slave fn s
  | .rspRead01 slave bc => Sys2Proof.Machine.execRspRead01 slave bc s
  | .rspRead02 slave bc => Sys2Proof.Machine.execRspRead02 slave bc s
  | .rspRead03 slave bc => Sys2Proof.Machine.execRspRead03 slave bc s
  | .rspRead04 slave bc => Sys2Proof.Machine.execRspRead04 slave bc s
  | .rspEcho slave fn => Sys2Proof.Machine.execRspEcho slave fn s

end Sys2Proof.Machine
end

