-- ==== Sys2Proof/Machine/HostBus.lean ====
section
/-! DEFINITION. The Host's register map and accesses (spec/10_state.md R25-R44; 20_memory.md R61-R64). A write to CTRL runs
instructions and is in Sequencer.lean. -/

namespace Sys2Proof.Machine

/-- What a 16-bit access at an offset reaches (10_state.md R25). -/
inductive Register where
  | ctrl
  | status
  | excCode
  | attempts
  | rxlen
  | txlen
  | crc
  | reqSlave
  | reqFunc
  | reqAddr
  | reqQtyval
  | reqFlags
  | val (i : Nat)
  | res (i : Nat)
  | rxb (i : Nat)
  | txb (i : Nat)
  /-- An even offset no row of R25 lists (20_memory.md R63). -/
  | reserved
  deriving DecidableEq, Repr

/-- The array windows of R25: entry `i` at `base + 2*i`, as far as the array's window goes. -/
def windowAt (a : Nat) : Register :=
  if 0x1000 ≤ a ∧ (a - 0x1000) / 2 < Config.valDepth then .val ((a - 0x1000) / 2)
  else if 0x2000 ≤ a ∧ (a - 0x2000) / 2 < Config.resDepth then .res ((a - 0x2000) / 2)
  else if 0x3000 ≤ a ∧ (a - 0x3000) / 2 < Config.rxWindow then .rxb ((a - 0x3000) / 2)
  else if 0x4000 ≤ a ∧ (a - 0x4000) / 2 < Config.txMax then .txb ((a - 0x4000) / 2)
  else .reserved

/-- The single registers of R25. -/
def scalarMap : List (Half × Register) :=
  [(0x0000#16, .ctrl), (0x0002#16, .status), (0x0004#16, .excCode), (0x0006#16, .attempts),
   (0x0008#16, .rxlen), (0x000A#16, .txlen), (0x000C#16, .crc), (0x0010#16, .reqSlave),
   (0x0012#16, .reqFunc), (0x0014#16, .reqAddr), (0x0016#16, .reqQtyval), (0x0018#16, .reqFlags)]

/-- The register map of R25, for an even offset. -/
def registerAt (off : Half) : Register :=
  match scalarMap.lookup off with
  | some r => r
  | none => windowAt off.toNat

/-- A host access the core honours: 16 bits wide at an even offset (20_memory.md R61, R62). -/
def isAligned (off : Half) (width : Nat) : Bool := width == 2 && off.toNat % 2 == 0

/-- A byte-valued register: the byte in bits [7:0], bits [15:8] = 0 (20_memory.md R67). -/
def byteRegister (b : Byte) : Half := b.setWidth 16

/-- The value of a register, or `none` where the spec leaves it unspecified: an unwritten VAL entry (R41), RES while RES_VALID
= 0 or at or beyond ACT.QTYVAL (R42), RXB and TXB at or beyond their lengths (R43, R44). -/
def readRegister (s : State) : Register → Option Half
  | .ctrl => some 0x0000#16
  | .status => some (statusWord s)
  | .excCode => some (byteRegister s.excCode)
  | .attempts => some s.attempts
  | .rxlen => some (BitVec.ofNat 16 s.rxb.length)
  | .txlen => some (BitVec.ofNat 16 s.txb.length)
  | .crc => some s.crc
  | .reqSlave => some (byteRegister s.req.slave)
  | .reqFunc => some (byteRegister s.req.func)
  | .reqAddr => some s.req.addr
  | .reqQtyval => some s.req.qty
  | .reqFlags => some ((BitVec.ofBool s.req.signed).setWidth 16)
  | .val i => s.val.read i
  | .res i => if s.resValid && decide (i < s.act.qty.toNat) then s.res[i]? else none
  | .rxb i => (s.rxb[i]?).map byteRegister
  | .txb i => (s.txb[i]?).map byteRegister
  | .reserved => some 0x0000#16

/-- MemRead(off, width): `none` is an unspecified value (20_memory.md R61-R64). -/
def readHost (s : State) (off : Half) (width : Nat) : Option Half :=
  if isAligned off width then readRegister s (registerAt off) else none

/-- The value of a read that the spec leaves unspecified: any 16-bit value, but in a byte-valued register bits [15:8] are 0
even then (20_memory.md R67; 93_implementation_defined.md I2, I4, I5, I6; log entry 16). -/
def drawnRead (s : State) (off : Half) (width : Nat) : Half :=
  match isAligned off width, registerAt off with
  | true, .rxb _ | true, .txb _ => byteRegister ((Config.draw s.draws off.toNat).setWidth 8)
  | _, _ => Config.draw s.draws off.toNat

/-- The Host step MemRead. It changes no state of the core (10_state.md R50); an unspecified value is drawn. -/
def hostRead (off : Half) (width : Nat) (s : State) : State :=
  match readHost s off width with
  | some v => { s with hostData := some v }
  | none => { s with hostData := some (drawnRead s off width), draws := s.draws + 1 }

/-- The Host step MemWrite to a register other than CTRL: REQ and VAL take the value, reserved bits are dropped, and a write
to a read-only or reserved register is ignored (R35-R41; 20_memory.md R63, R64). -/
def writeRegister (v : Half) (s : State) : Register → State
  | .reqSlave => { s with req := { s.req with slave := v.setWidth 8 } }
  | .reqFunc => { s with req := { s.req with func := v.setWidth 8 } }
  | .reqAddr => { s with req := { s.req with addr := v } }
  | .reqQtyval => { s with req := { s.req with qty := v } }
  | .reqFlags => { s with req := { s.req with signed := v.getLsbD 0 } }
  | .val i => { s with val := s.val.write i v }
  | .ctrl | .status | .excCode | .attempts | .rxlen | .txlen | .crc => s
  | .res _ | .rxb _ | .txb _ | .reserved => s

end Sys2Proof.Machine
end

