-- ==== Sys2Proof/Machine/Sequencer.lean ====
section
/-! DEFINITION. One step of the machine: which agent moves, and what its step does (spec/00_scope.md R18; 10_state.md R20;
46_master_api.md R251, R264). -/

namespace Sys2Proof.Machine

/-- The actions of one CTRL write, each on the state the previous one left, all in one Host step (46_master_api.md R264). -/
def runActions : List Instr → State → Host.Outcome State Fault Refusal
  | [], s => .next s
  | i :: is, s =>
    match exec i s with
    | .next t => runActions is t
    | .fault r => .fault r
    | .refused r => .refused r

/-- The Host step MemWrite(off, width, v). A write of another width or at an odd offset is ignored (20_memory.md R62). -/
def hostWrite (off : Half) (width : Nat) (v : Half) (s : State) : Host.Outcome State Fault Refusal :=
  if isAligned off width then
    if registerAt off = .ctrl then runActions (ctrlActions v) s
    else .next (writeRegister v s (registerAt off))
  else .next s

/-- The event is a step of the Host. -/
def Event.isHost : Event → Bool
  | .hostWrite _ _ _ | .hostRead _ _ | .hostWait => true
  | .deliver _ | .core | .reset => false

/-- The word the Host has read has bit 3, DONE, set. -/
def readDone (s : State) : Bool :=
  match s.hostData with
  | some w => w.getLsbD 3
  | none => false

/-- The steps to come after a read of WAIT that did not find DONE = 1: one step that is not the Host's, and then the WAIT again.
That step is the next one of `rest`, or the Core's turn where the next one is the Host's own, which waits for the WAIT to end, or
there is none (70_reset_and_hazards.md R352; log entries 7, 22). -/
def waitAgain : List Event → List Event
  | [] => [.core, .hostWait]
  | e :: rest => if e.isHost then .core :: .hostWait :: e :: rest else e :: .hostWait :: rest

/-- One step of WAIT (30_encoding.md R99): MemRead(0x0002, 2), and the WAIT stays pending unless bit 3 of the word read is 1. -/
def hostWait (s : State) : State :=
  let t := hostRead 0x0002#16 2 s
  if readDone t then t else { t with inbox := waitAgain t.inbox }

/-- The Core's enabled step (46_master_api.md R251): SEND in SENDING, POLL in AWAITING, and in VALIDATING the VALIDATE of
the command in ACT, or, where ACT.FUNC is none of the eight codes, the VALIDATE of R220 without a decoder (log entry 15). In the
other phases the Core has no enabled step and its turn passes (log entry 8). -/
def coreTurn (s : State) : Host.Outcome State Fault Refusal :=
  match s.phase with
  | .idle | .completed | .failed => .next s
  | .sending => .next (send s)
  | .awaiting => .next (poll s)
  | .validating =>
    match decodeRequest s.act with
    | .ok i => exec i s
    | .error _ => .next (validate finishUnlisted s)

/-- One event. -/
def takeEvent (e : Event) (s : State) : Host.Outcome State Fault Refusal :=
  match e with
  | .hostWrite off width v => hostWrite off width v s
  | .hostRead off width => .next (hostRead off width s)
  | .hostWait => .next (hostWait s)
  | .deliver d => .next (deliver d s)
  | .core => coreTurn s
  | .reset => .next (resetCore s)

/-- One step: the next event of the inbox, which leaves the inbox; with none pending, the Core's turn
(70_reset_and_hazards.md R352; log entries 1, 7). -/
def takeTurn (s : State) : Host.Outcome State Fault Refusal :=
  match s.inbox with
  | [] => coreTurn s
  | e :: rest => takeEvent e { s with inbox := rest }

/-- The state in which the very next step runs the instruction `decodeTableWord nbits w` (log entry 10). A word of 16 bits is
the value of a CTRL write. A word of 8 bits that selects a command is FUNC of a request whose other fields are 0: in REQ with a
START pending, or in ACT with the Core's turn next where the phase is busy. Any other word of 8 bits is byte 1 of a response
whose other bytes are 0, waiting on the line in AWAITING. -/
def loadTableWord (s : State) (nbits w : Nat) : State :=
  if nbits = 16 then { s with inbox := .hostWrite 0x0000#16 2 (BitVec.ofNat 16 w) :: s.inbox }
  else
    match decodeRequest (bareRequest (BitVec.ofNat 8 w)) with
    | .ok _ =>
      if s.phase.busy then { s with act := bareRequest (BitVec.ofNat 8 w), inbox := .core :: s.inbox }
      else { s with req := bareRequest (BitVec.ofNat 8 w),
                    inbox := .hostWrite 0x0000#16 2 0x0001#16 :: s.inbox }
    | .error _ =>
      { s with phase := .awaiting, rxb := [], lineRxq := [0#8, BitVec.ofNat 8 w, 0#8], inbox := .core :: s.inbox }

end Sys2Proof.Machine
end

