-- ==== Sys2Proof/Machine/Step.lean ====
section
/-! DEFINITION. The step of the machine, and the state that runs a given word of the opcode table next. -/

namespace Sys2Proof.Machine

/-- One atomic step of one agent (spec/00_scope.md R17, R18). -/
def step (s : State) : Host.Outcome State Fault Refusal := takeTurn s

/-- The state whose very next step runs the instruction of this word. -/
def State.withFetchWord (s : State) (nbits w : Nat) : State := loadTableWord s nbits w

end Sys2Proof.Machine
end

