-- ==== Sys2Proof/Machine/Assembler.lean ====
section
/-! DEFINITION. The pseudo-instructions (spec/30_encoding.md R98, R99): a command line and its expansion into Host accesses. -/

namespace Sys2Proof.Machine

/-- MemWrite(off, 2, v). -/
def wr (off v : Half) : Event := .hostWrite off 2 v

/-- MemRead(off, 2). -/
def rd (off : Half) : Event := .hostRead off 2

/-- The writes that stage VAL[k..] (R99). -/
def stageFrom : Nat → List Half → List Event
  | _, [] => []
  | k, v :: vs => wr (BitVec.ofNat 16 (0x1000 + 2 * k)) v :: stageFrom (k + 1) vs

/-- The writes that fill the request registers, and the START (R99). -/
def requestWrites (r : Request) : List Event :=
  [wr 0x0010#16 (byteRegister r.slave), wr 0x0012#16 (byteRegister r.func), wr 0x0014#16 r.addr,
   wr 0x0016#16 r.qty, wr 0x0018#16 ((BitVec.ofBool r.signed).setWidth 16), wr 0x0000#16 0x0001#16]

/-- The expansion of a command line or a CTRL pseudo-instruction with the value list `vals`, which the multiple writes stage
first (R99). A response class is the Line's and has none. -/
def expand (i : Instr) (vals : List Half) : List Event :=
  match encode i with
  | .ctrl v => [wr 0x0000#16 v]
  | .request r => stageFrom 0 vals ++ requestWrites r
  | .response _ => []

/-- A line of the spec's assembly syntax (R98, R99), with its operands as numbers. A write of several values carries the
list of them; a negative register value is allowed in WR_REGS. -/
inductive CommandLine where
  | rdCoils (slave addr count : Nat)
  | rdDiscrete (slave addr count : Nat)
  | rdHolding (slave addr count : Nat) (signed : Bool)
  | rdInput (slave addr count : Nat) (signed : Bool)
  | wrCoil (slave addr : Nat) (on : Bool)
  | wrReg (slave addr value : Nat)
  | wrCoils (slave addr : Nat) (bits : List Bool)
  | wrRegs (slave addr : Nat) (words : List Int)
  | wait
  | abort
  | clro
  deriving DecidableEq, Repr

/-- The operands of a command line: `signed` sets SIGNED, and its absence means 0 (R98). -/
def lineOperands (slave addr x : Nat) (signed : Bool) : Operands :=
  { slave := BitVec.ofNat 8 slave, addr := BitVec.ofNat 16 addr, qty := BitVec.ofNat 16 x, signed := signed }

/-- The Host accesses of a command line (R99): on = 0x0001, off = 0x0000; the count of a multiple write is the number of its
values; a negative word w is written as w mod 65536. WAIT is the Host's loop, `Event.hostWait`. -/
def CommandLine.assemble : CommandLine → List Event
  | .rdCoils s a n => expand (.rdCoils (lineOperands s a n false)) []
  | .rdDiscrete s a n => expand (.rdDiscrete (lineOperands s a n false)) []
  | .rdHolding s a n sg => expand (.rdHolding (lineOperands s a n sg)) []
  | .rdInput s a n sg => expand (.rdInput (lineOperands s a n sg)) []
  | .wrCoil s a on => expand (.wrCoil (lineOperands s a (if on then 1 else 0) false)) []
  | .wrReg s a v => expand (.wrReg (lineOperands s a v false)) []
  | .wrCoils s a bs => expand (.wrCoils (lineOperands s a bs.length false)) (bs.map coilWord)
  | .wrRegs s a ws => expand (.wrRegs (lineOperands s a ws.length false)) (ws.map (BitVec.ofInt 16))
  | .wait => [.hostWait]
  | .abort => expand .abort []
  | .clro => expand .clrOverrun []

end Sys2Proof.Machine
end

