-- ==== Sys2Proof/Safety.lean ====
section
/-! DEFINITION. What the claims call a good state, and the words they use for runs: the invariant of the machine, the steps a
transaction has left, and the Line-timeliness premise of spec/70_reset_and_hazards.md R353. -/

namespace Sys2Proof

/-- The instruction is one of the eight commands, with FUNC `f`. -/
def Instr.isCommand (f : Byte) : Instr → Bool
  | .rdCoils _ => f == 0x01#8
  | .rdDiscrete _ => f == 0x02#8
  | .rdHolding _ => f == 0x03#8
  | .rdInput _ => f == 0x04#8
  | .wrCoil _ => f == 0x05#8
  | .wrReg _ => f == 0x06#8
  | .wrCoils _ => f == 0x0F#8
  | .wrRegs _ => f == 0x10#8
  | .start | .abort | .clrOverrun => false
  | .rspExc _ _ | .rspRead01 _ _ | .rspRead02 _ _ | .rspRead03 _ _ | .rspRead04 _ _ | .rspEcho _ _ => false

end Sys2Proof

namespace Sys2Proof.Machine

/-! ## The invariant -/

/-- A request frame as it may stand in TXB or in LINE_TX: 8 to 264 bytes (43_frame_builder.md R187), a correct CRC field (R186),
a legal slave and a legal function code (46_master_api.md R253). -/
abbrev frameOk (f : List Byte) : Prop :=
  8 ≤ f.length ∧ f.length ≤ Config.txMax ∧ crcMatches f = true ∧
    1 ≤ (f.getD 0 0#8).toNat ∧ (f.getD 0 0#8).toNat ≤ Config.slaveMax ∧
    (isRead (f.getD 1 0#8) || isWrite (f.getD 1 0#8)) = true

/-- The arrays and buffers keep their form and their bounds (10_state.md R21, R43). -/
abbrev InvArrays (s : State) : Prop :=
  s.val.wf ∧ s.res.length ≤ Config.resDepth ∧ s.rxb.length ≤ s.params.rxCapacity ∧ (s.txb = [] ∨ frameOk s.txb)

/-- Every frame emitted on the line was a legal request (46_master_api.md R266). -/
abbrev InvLine (s : State) : Prop := ∀ f ∈ s.lineTx, frameOk f

/-- ATTEMPTS never exceeds the budget (42_transport.md R166), is 0 until the first POLL, and is below the budget while the
phase is AWAITING. -/
abbrev InvAttempts (s : State) : Prop :=
  s.attempts.toNat ≤ s.params.maxAttempts ∧
    (s.phase = .idle ∨ s.phase = .sending → s.attempts = 0#16) ∧
    (s.phase = .awaiting → s.attempts.toNat < s.params.maxAttempts)

/-- CODE fits PHASE (60_exceptions.md R300, R301): OK until the end, and then the codes of the table's final phase. -/
abbrev InvOutcome (s : State) : Prop :=
  (s.phase = .completed → s.code = .ok ∨ s.code = .writeNotConfirmed) ∧
    (s.phase = .failed → s.code ≠ .ok ∧ s.code ≠ .writeNotConfirmed) ∧
    (s.phase.done = false → s.code = .ok)

/-- The active request of a transaction that was not refused passed the bounds check, and TXB is the record of it
(60_exceptions.md R316); until VALIDATE, CRC is the CRC of TXB's body (10_state.md R34). -/
abbrev InvActive (s : State) : Prop :=
  (s.phase ≠ .idle ∧ s.code ≠ .invalidArgument →
    boundsOk s.act = true ∧ s.txb.take 4 = [s.act.slave, s.act.func] ++ be16 s.act.addr) ∧
    (s.phase = .sending ∨ s.phase = .awaiting → s.crc = crc16 (crcBody s.txb))

/-- The flags and EXC_CODE tell the outcome (10_state.md R30, R42, R47; 46_master_api.md R265). -/
abbrev InvFlags (s : State) : Prop :=
  (s.phase = .completed ∧ s.code = .ok → s.resValid = isRead s.act.func ∧ s.confirmed = isWrite s.act.func) ∧
    (s.phase ≠ .completed ∨ s.code ≠ .ok → s.resValid = false ∧ s.confirmed = false) ∧
    (s.resValid = true → s.act.qty.toNat ≤ s.res.length) ∧
    (s.code = .writeNotConfirmed → isWrite s.act.func = true) ∧
    (s.code = .decodeError → isRead s.act.func = true) ∧
    (s.code ≠ .slaveException → s.excCode = 0#8)

/-- RXB through a transaction: empty until a POLL, never complete while AWAITING (42_transport.md R167), and at VALIDATE
complete or out of budget (R163); and the evidence of three failures (60_exceptions.md R300). -/
abbrev InvBuffer (s : State) : Prop :=
  (s.phase = .idle ∨ s.phase = .sending → s.rxb = []) ∧
    (s.phase = .awaiting → isComplete s.rxb = false) ∧
    (s.phase = .validating → isComplete s.rxb = true ∨ s.attempts.toNat = s.params.maxAttempts) ∧
    (s.code = .noResponse → s.rxb = [] ∧ s.attempts.toNat = s.params.maxAttempts) ∧
    (s.code = .invalidArgument → s.rxb = [] ∧ s.txb = []) ∧
    (s.code = .aborted → s.rxb = [] ∧ s.attempts.toNat < s.params.maxAttempts)

/-- The invariant of the machine. -/
abbrev Inv (s : State) : Prop :=
  s.params.wf ∧ InvArrays s ∧ InvLine s ∧ InvAttempts s ∧ InvOutcome s ∧ InvActive s ∧ InvFlags s ∧ InvBuffer s

/-! ## Words for events and runs -/

/-- A Host write that reaches CTRL. -/
def Event.isCtrlWrite : Event → Bool
  | .hostWrite off width _ => isAligned off width && decide (registerAt off = .ctrl)
  | .hostRead _ _ | .hostWait | .deliver _ | .core | .reset => false

/-- A CTRL write whose bit `k` is 1. -/
def Event.setsCtrlBit (k : Nat) : Event → Bool
  | .hostWrite off width v => isAligned off width && decide (registerAt off = .ctrl) && v.getLsbD k
  | .hostRead _ _ | .hostWait | .deliver _ | .core | .reset => false

/-- An event that is neither a CTRL write, nor a WAIT, nor a reset. -/
def Event.quiet : Event → Bool
  | .hostWrite off width _ => !(isAligned off width && decide (registerAt off = .ctrl))
  | .hostRead _ _ | .deliver _ | .core => true
  | .hostWait | .reset => false

/-- A run of `k` steps. -/
def run (k : Nat) (s : State) : Host.Outcome State Fault Refusal := Sys2Proof.core.run k s

/-- The most Core steps the transaction of `s` has left (46_master_api.md R267): one SEND, the POLLs of the budget not yet
taken, one VALIDATE. -/
def stepsLeft (s : State) : Nat :=
  match s.phase with
  | .sending => s.params.maxAttempts + 2
  | .awaiting => s.params.maxAttempts - s.attempts.toNat + 1
  | .validating => 1
  | .idle | .completed | .failed => 0

/-! ## The Line premise -/

/-- The Line's deliveries and the Core's POLLs after a SEND: `polls` holds, for each POLL in turn, the byte strings delivered
since the one before it. -/
def pollSchedule (polls : List (List (List Byte))) : List Event :=
  polls.flatMap fun ds => ds.map .deliver ++ [.core]

/-- LINE_OK(T, r) (70_reset_and_hazards.md R353) for such a schedule: the delivered bytes form exactly `r`, and the last POLL
takes the last byte of `r` within the budget. -/
structure LineOk (p : Params) (polls : List (List (List Byte))) (r : List Byte) : Prop where
  bytes : polls.flatten.flatten = r
  timely : polls.length ≤ p.maxAttempts
  lastByte : ∃ ds, polls.getLast? = some ds ∧ ds.flatten ≠ []

/-- `r` is complete and no proper prefix of it is (R353). -/
abbrev IsFrame (r : List Byte) : Prop := isComplete r = true ∧ ∀ n < r.length, isComplete (r.take n) = false

end Sys2Proof.Machine
end

