-- ==== Sys2Proof/Certificates/Slice0/Obligations.lean ====
section
/-! DEFINITION. The statements for the provers. Rule numbers are those of spec/; "log n" is notes/assumptions/n.md. -/

open Sys2Proof Sys2Proof.Machine

/-! ## Reset, the invariant, progress -/

/-- R51: what reset leaves, from every state, and that the parameters are not changed by it (R340). Unspecified content gives no
value. -/
def Obligations.ResetLeavesSpecValues : Prop :=
  ∀ s : State, ∃ t, takeEvent .reset s = .next t ∧
    t.phase = .idle ∧ t.code = .ok ∧ t.excCode = 0#8 ∧
    t.confirmed = false ∧ t.overrun = false ∧ t.resValid = false ∧ t.rxovf = false ∧
    t.attempts = 0#16 ∧ t.crc = 0xFFFF#16 ∧
    t.req = { slave := 0#8, func := 0#8, addr := 0#16, qty := 0#16, signed := false } ∧
    t.act = { slave := 0#8, func := 0#8, addr := 0#16, qty := 0#16, signed := false } ∧
    (∀ i, readRegister t (.val i) = none) ∧ (∀ i, readRegister t (.res i) = none) ∧
    t.txb = [] ∧ t.rxb = [] ∧ t.lineRxq = [] ∧ t.lineTx = [] ∧ t.params = s.params

/-- The invariant holds right after reset, with the default parameters and with every other legal pair of them. -/
def Obligations.ResetMeetsInvariant : Prop :=
  Inv State.reset ∧ ∀ p : Params, p.wf → Inv { State.reset with params := p }

/-- Every step keeps the invariant: VAL canonical, every buffer within its bound, every frame on the line a legal request,
the budget kept, CODE and the flags fitting PHASE, TXB the record of ACT. -/
def Obligations.EveryStepKeepsInvariant : Prop :=
  ∀ s t : State, Inv s → step s = .next t → Inv t

/-- A step answers a next state from every state, whatever event is next: the model has no stop. That EVERY state answers rests on
the model's own choices: the Core's turn where no event is pending (log 7), the turn that passes where the Core has no enabled step
(log 8), the free outcome of VALIDATE where R220 has no branch for ACT.FUNC and R251 only says COMPLETED or FAILED (log 15), the
free values that R140 and R229 say are never needed (log 13), and WAIT as an event with a step of its own (log 22). -/
def Obligations.NoStateStops : Prop :=
  ∀ s : State, ∃ t, step s = .next t

/-- R220, R225, R251: VALIDATE where ACT.FUNC is none of the eight codes, which no run from reset reaches. The checks are those of
every command; where they pass, the case on ACT.FUNC has no branch, and PHASE and CODE are open among the outcomes named here, the
model's free value (log 15), with nothing else written but CRC. -/
def Obligations.UnlistedFunctionValidates : Prop :=
  ∀ s : State, s.phase = .validating →
    s.act.func ∉ ([0x01#8, 0x02#8, 0x03#8, 0x04#8, 0x05#8, 0x06#8, 0x0F#8, 0x10#8] : List Byte) →
    let c := crc16 (s.rxb.take (s.rxb.length - 2))
    let good := c.toNat = (s.rxb.getD (s.rxb.length - 2) 0#8).toNat + 256 * (s.rxb.getD (s.rxb.length - 1) 0#8).toNat
    (s.rxb = [] → takeEvent .core s = .next { s with code := .noResponse, phase := .failed }) ∧
    (s.rxb.length = 1 → takeEvent .core s = .next { s with code := .frameCorruption, phase := .failed }) ∧
    (2 ≤ s.rxb.length → ¬ good →
      takeEvent .core s = .next { s with crc := c, code := .frameCorruption, phase := .failed }) ∧
    (2 ≤ s.rxb.length → good → s.rxb.getD 0 0#8 ≠ s.act.slave →
      takeEvent .core s = .next { s with crc := c, code := .addressMismatch, phase := .failed }) ∧
    (3 ≤ s.rxb.length → good → s.rxb.getD 0 0#8 = s.act.slave → s.rxb.getD 1 0#8 = s.act.func ||| 0x80#8 →
      takeEvent .core s = .next { s with
        crc := c, excCode := s.rxb.getD 2 0#8, code := .slaveException, phase := .failed }) ∧
    (2 ≤ s.rxb.length → good → s.rxb.getD 0 0#8 = s.act.slave → s.rxb.getD 1 0#8 ≠ s.act.func ||| 0x80#8 →
      ∃ code ph,
        ((code = .ok ∨ code = .writeNotConfirmed) ∧ ph = .completed ∨
          (code = .decodeError ∨ code = .invalidArgument) ∧ ph = .failed) ∧
        takeEvent .core s = .next { s with crc := c, code := code, phase := ph, draws := s.draws + 1 })

/-! ## Encoding -/

/-- Decoding the encoding of a well-formed instruction gives that instruction, with every operand at every value. -/
def Obligations.DecodeOfEncodeIsInstruction : Prop :=
  ∀ i : Instr, i.wf = true → decode (encode i) = .ok [i]

/-- The other direction: a request and a response header have one meaning each, which encodes to them; and what is decoded
is well formed. -/
def Obligations.EncodeOfDecodedIsSelector : Prop :=
  (∀ r i, decodeRequest r = .ok i → encode i = .request r ∧ i.wf = true) ∧
  (∀ bs i rest, decodeResponse bs = .ok (i, rest) →
    ∃ hdr, encode i = .response hdr ∧ bs = hdr ++ rest ∧ i.wf = true)

/-- Words written out from the spec's encodings decode to the instructions they stand for. -/
def Obligations.SpecWordsDecode : Prop :=
  decode (.ctrl 0b0000000000000001#16) = .ok [.start] ∧
  decode (.ctrl 0b0000000000000010#16) = .ok [.abort] ∧
  decode (.ctrl 0b0000000000000100#16) = .ok [.clrOverrun] ∧
  decode (.request { slave := 1#8, func := 0b00000011#8, addr := 1000#16, qty := 1#16, signed := true }) =
    .ok [.rdHolding { slave := 1#8, addr := 1000#16, qty := 1#16, signed := true }] ∧
  decode (.request { slave := 10#8, func := 0b00001111#8, addr := 19#16, qty := 10#16, signed := false }) =
    .ok [.wrCoils { slave := 10#8, addr := 19#16, qty := 10#16, signed := false }] ∧
  decode (.response [0x01#8, 0b10000011#8, 0x02#8]) = .ok [.rspExc 0x01#8 3#7] ∧
  decode (.response [0x01#8, 0b00000011#8, 0x02#8]) = .ok [.rspRead03 0x01#8 0x02#8] ∧
  decode (.response [0x01#8, 0b00000101#8]) = .ok [.rspEcho 0x01#8 5#7]

/-- R94: a START with FUNC outside the eight codes ends at once in FAILED with INVALID_ARGUMENT and emits nothing; 0x00 and
every value with bit 7 set are outside them, and 248 values are. -/
def Obligations.IllegalFunctionEndsAtStart : Prop :=
  (∀ s : State, s.phase.busy = false →
    s.req.func ∉ ([0x01#8, 0x02#8, 0x03#8, 0x04#8, 0x05#8, 0x06#8, 0x0F#8, 0x10#8] : List Byte) →
    ∃ t, exec .start s = .next t ∧ t.phase = .failed ∧ t.code = .invalidArgument ∧
      t.txb = [] ∧ t.lineTx = s.lineTx) ∧
  (∀ f : Byte, f = 0x00#8 ∨ f.getLsbD 7 = true →
    f ∉ ([0x01#8, 0x02#8, 0x03#8, 0x04#8, 0x05#8, 0x06#8, 0x0F#8, 0x10#8] : List Byte)) ∧
  ((List.range 256).filter fun n =>
    !(isRead (BitVec.ofNat 8 n) || isWrite (BitVec.ofNat 8 n))).length = 248

/-! ## The step and the instructions it runs -/

/-- A step takes the next event, or the Core's turn when none is pending (log 7); and wherever a selector of the machine
decodes to an instruction, what the machine does there is `exec` of that instruction. A step of WAIT is the Host's read of STATUS,
and the WAIT stays pending, behind one step that is not the Host's (log 22), unless bit 3 of the word read is 1 (R99). -/
def Obligations.StepRunsDecodedInstruction : Prop :=
  (∀ s e rest, s.inbox = e :: rest → step s = takeEvent e { s with inbox := rest }) ∧
  (∀ s, s.inbox = [] → step s = takeEvent .core s) ∧
  (∀ s v i, decode (.ctrl v) = .ok [i] → takeEvent (.hostWrite 0x0000#16 2 v) s = exec i s) ∧
  (∀ s i, s.phase.busy = false → decode (.request s.req) = .ok [i] → exec .start s = exec i s) ∧
  (∀ s i, s.phase.busy = true → decode (.request s.act) = .ok [i] → takeEvent .core s = exec i s) ∧
  (∀ s i, s.phase = .awaiting → decode (.response (receive s).rxb) = .ok [i] →
    takeEvent .core s = exec i (receive s)) ∧
  (∀ s, ∃ w, takeEvent (.hostRead 0x0002#16 2) s = .next { s with hostData := some w } ∧
    takeEvent .hostWait s =
      .next { s with hostData := some w, inbox := if w.getLsbD 3 then s.inbox else waitAgain s.inbox })

/-- R264: the bits of one CTRL write act in the order bit 2, bit 1, bit 0, each on the state the previous one left; the other
bits do nothing. -/
def Obligations.CtrlBitsActInOrder : Prop :=
  ∀ (s : State) (v : Half), ∃ a b c,
    (if v.getLsbD 2 then exec .clrOverrun s = .next a else a = s) ∧
    (if v.getLsbD 1 then exec .abort a = .next b else b = a) ∧
    (if v.getLsbD 0 then exec .start b = .next c else c = b) ∧
    takeEvent (.hostWrite 0x0000#16 2 v) s = .next c

/-! ## The CTRL actions -/

/-- R252: START. -/
def Obligations.StartFollowsPseudocode : Prop :=
  ∀ s : State,
    (s.phase = .sending ∨ s.phase = .awaiting ∨ s.phase = .validating →
      exec .start s = .next { s with overrun := true }) ∧
    (s.phase = .idle ∨ s.phase = .completed ∨ s.phase = .failed →
      (argsOk s.req (valView s) = true →
        exec .start s = .next { s with
          act := s.req, code := .ok, excCode := 0#8, confirmed := false, resValid := false, rxovf := false,
          attempts := 0#16, rxb := [],
          txb := requestBody s.req (valView s) ++ le16 (crc16 (requestBody s.req (valView s))),
          crc := crc16 (requestBody s.req (valView s)),
          phase := .sending, draws := s.draws + 1 }) ∧
      (argsOk s.req (valView s) = false →
        exec .start s = .next { s with
          act := s.req, code := .invalidArgument, excCode := 0#8, confirmed := false, resValid := false,
          rxovf := false, attempts := 0#16, rxb := [], txb := [], phase := .failed, draws := s.draws + 1 }))

/-- R253: the bounds check is the spec's, for every request and every content of VAL; where it fails, the outcome is
INVALID_ARGUMENT and the line sees no frame. -/
def Obligations.ArgumentCheckIsSpecBounds : Prop :=
  (∀ s : State, s.phase.busy = false → argsOk s.req (valView s) = false →
    ∃ t, exec .start s = .next t ∧ t.phase = .failed ∧ t.code = .invalidArgument ∧ t.txb = [] ∧
      t.lineTx = s.lineTx) ∧
  ∀ (r : Request) (val : Nat → Half),
    argsOk r val = true ↔
      (1 ≤ r.slave.toNat ∧ r.slave.toNat ≤ 247) ∧
      ((r.func = 0x01#8 ∨ r.func = 0x02#8) ∧ 1 ≤ r.qty.toNat ∧ r.qty.toNat ≤ 2000 ∨
       (r.func = 0x03#8 ∨ r.func = 0x04#8) ∧ 1 ≤ r.qty.toNat ∧ r.qty.toNat ≤ 125 ∨
       r.func = 0x05#8 ∧ (r.qty = 0x0000#16 ∨ r.qty = 0x0001#16) ∨
       r.func = 0x06#8 ∨
       r.func = 0x0F#8 ∧ r.qty.toNat ≤ 2040 ∧
         (∀ i < r.qty.toNat, val i = 0x0000#16 ∨ val i = 0x0001#16) ∨
       r.func = 0x10#8 ∧ 1 ≤ r.qty.toNat ∧ r.qty.toNat ≤ 123)

/-- R262: ABORT acts in AWAITING only. -/
def Obligations.AbortEndsAwaitingOnly : Prop :=
  ∀ s : State,
    (s.phase = .awaiting →
      exec .abort s = .next { s with rxb := [], lineRxq := [], code := .aborted, phase := .failed }) ∧
    (s.phase ≠ .awaiting → exec .abort s = .next s)

/-- R48, R263: OVERRUN is set by a START while busy, and cleared only by CLR_OVERRUN and reset; its reset value is 0.
CLR_OVERRUN is legal in every phase and changes nothing else. -/
def Obligations.OverrunIsStickyUntilCleared : Prop :=
  State.reset.overrun = false ∧
  (∀ s : State, s.phase.busy = true → exec .start s = .next { s with overrun := true }) ∧
  (∀ s : State, exec .clrOverrun s = .next { s with overrun := false }) ∧
  (∀ (s t : State) (e : Event), takeEvent e s = .next t →
    (s.overrun = false → t.overrun = true → s.phase.busy = true ∧ e.setsCtrlBit 0 = true) ∧
    (s.overrun = true → t.overrun = false → e = .reset ∨ e.setsCtrlBit 2 = true))

/-! ## The frames of START -/

/-- R181, R82: START of the four reads builds RQ-READ. The rest of the state is as R252 says. -/
def Obligations.ReadStartBuildsFrame : Prop :=
  ∀ (s : State) (o : Operands), s.phase.busy = false → 1 ≤ o.slave.toNat → o.slave.toNat ≤ 247 →
    1 ≤ o.qty.toNat →
    let started : Byte → State := fun f =>
      let body := [o.slave, f] ++ be16 o.addr ++ be16 o.qty
      { s with
        act := { slave := o.slave, func := f, addr := o.addr, qty := o.qty, signed := o.signed }
        code := .ok, excCode := 0#8, confirmed := false, resValid := false, rxovf := false,
        attempts := 0#16, rxb := [], txb := body ++ le16 (crc16 body), crc := crc16 body,
        phase := .sending, draws := s.draws + 1 }
    (o.qty.toNat ≤ 2000 →
      exec (.rdCoils o) s = .next (started 0x01#8) ∧ exec (.rdDiscrete o) s = .next (started 0x02#8)) ∧
    (o.qty.toNat ≤ 125 →
      exec (.rdHolding o) s = .next (started 0x03#8) ∧ exec (.rdInput o) s = .next (started 0x04#8))

/-- R182, R183, R83: START of the two single writes builds RQ-WSINGLE with the wire value 0xFF00 or 0x0000, or the register
value unchanged. -/
def Obligations.SingleWriteStartBuildsFrame : Prop :=
  ∀ (s : State) (o : Operands), s.phase.busy = false → 1 ≤ o.slave.toNat → o.slave.toNat ≤ 247 →
    let started : Byte → Half → State := fun f wire =>
      let body := [o.slave, f] ++ be16 o.addr ++ be16 wire
      { s with
        act := { slave := o.slave, func := f, addr := o.addr, qty := o.qty, signed := o.signed }
        code := .ok, excCode := 0#8, confirmed := false, resValid := false, rxovf := false,
        attempts := 0#16, rxb := [], txb := body ++ le16 (crc16 body), crc := crc16 body,
        phase := .sending, draws := s.draws + 1 }
    (o.qty = 0x0001#16 → exec (.wrCoil o) s = .next (started 0x05#8 0xFF00#16)) ∧
    (o.qty = 0x0000#16 → exec (.wrCoil o) s = .next (started 0x05#8 0x0000#16)) ∧
    exec (.wrReg o) s = .next (started 0x06#8 o.qty)

/-- R184: START of WR_REGS builds RQ-WMULTI from the words the Host wrote to VAL. -/
def Obligations.RegisterWriteStartBuildsFrame : Prop :=
  ∀ (s : State) (o : Operands) (ws : List Half), s.phase.busy = false →
    1 ≤ o.slave.toNat → o.slave.toNat ≤ 247 →
    o.qty.toNat = ws.length → 1 ≤ ws.length → ws.length ≤ 123 →
    (∀ i < ws.length, s.val.read i = ws[i]?) →
    let body := [o.slave, 0x10#8] ++ be16 o.addr ++ be16 o.qty ++
      [BitVec.ofNat 8 (2 * ws.length)] ++ ws.flatMap be16
    exec (.wrRegs o) s = .next { s with
      act := { slave := o.slave, func := 0x10#8, addr := o.addr, qty := o.qty, signed := o.signed }
      code := .ok, excCode := 0#8, confirmed := false, resValid := false, rxovf := false,
      attempts := 0#16, rxb := [], txb := body ++ le16 (crc16 body), crc := crc16 body,
      phase := .sending, draws := s.draws + 1 }

/-- R185: START of WR_COILS builds RQ-WMULTI from the coil values the Host wrote to VAL; no coil at all is legal. -/
def Obligations.CoilWriteStartBuildsFrame : Prop :=
  ∀ (s : State) (o : Operands) (bs : List Bool), s.phase.busy = false →
    1 ≤ o.slave.toNat → o.slave.toNat ≤ 247 →
    o.qty.toNat = bs.length → bs.length ≤ 2040 →
    (∀ i < bs.length, s.val.read i = bs[i]?.map fun b => if b then 0x0001#16 else 0x0000#16) →
    let body := [o.slave, 0x0F#8] ++ be16 o.addr ++ be16 o.qty ++
      [BitVec.ofNat 8 ((bs.length + 7) / 8)] ++ packCoils bs
    exec (.wrCoils o) s = .next { s with
      act := { slave := o.slave, func := 0x0F#8, addr := o.addr, qty := o.qty, signed := o.signed }
      code := .ok, excCode := 0#8, confirmed := false, resValid := false, rxovf := false,
      attempts := 0#16, rxb := [], txb := body ++ le16 (crc16 body), crc := crc16 body,
      phase := .sending, draws := s.draws + 1 }

/-- R187: the length of TXB after a build, and where TX_MAX is reached. -/
def Obligations.BuiltFrameLengths : Prop :=
  ∀ (r : Request) (val : Nat → Half) (s : State), argsOk r val = true →
    let n := r.qty.toNat
    let len := (buildFrame r val s).txb.length
    ((r.func = 0x01#8 ∨ r.func = 0x02#8 ∨ r.func = 0x03#8 ∨ r.func = 0x04#8 ∨ r.func = 0x05#8 ∨
      r.func = 0x06#8) → len = 8) ∧
    (r.func = 0x0F#8 → len = 9 + (n + 7) / 8 ∧ 9 ≤ len ∧ len ≤ 264) ∧
    (r.func = 0x10#8 → len = 9 + 2 * n ∧ 11 ≤ len ∧ len ≤ 255) ∧
    (len = 264 ↔ r.func = 0x0F#8 ∧ 2033 ≤ n ∧ n ≤ 2040)

/-! ## The CRC generator and the Codec -/

/-- R123: T[i] is CRC_UPDATE of i and 0, and the table-driven update gives the same CRC as the bitwise rule for every CRC
and b. -/
def Obligations.TableUpdateEqualsBitwise : Prop :=
  crcTable.length = 256 ∧
  (∀ i < 256, crcTable.getD i 0#16 = crcUpdate (BitVec.ofNat 16 i) 0x00#8) ∧
  ∀ (c : Half) (b : Byte), crcUpdateByTable c b = crcUpdate c b

/-- R127: a string and its CRC, low byte first, has CRC16 zero; the trailing pair is unique; and the zero residue is the check
of R126. -/
def Obligations.CrcResidueIsZero : Prop :=
  (∀ bs : List Byte, crc16 (bs ++ le16 (crc16 bs)) = 0x0000#16) ∧
  (∀ (bs : List Byte) (a b : Byte), crc16 (bs ++ [a, b]) = 0x0000#16 ↔ [a, b] = le16 (crc16 bs)) ∧
  (∀ r : List Byte, 2 ≤ r.length → (crc16 r = 0x0000#16 ↔ crcMatches r = true))

/-- The one-byte over-read of R233: a correct frame with one more byte passes the CRC check exactly if that byte is 0x00,
because CRC16(s ++ [lo]) = hi. -/
def Obligations.OneZeroByteOverreadPasses : Prop :=
  (∀ bs : List Byte,
    crc16 (bs ++ [(crc16 bs).extractLsb' 0 8]) = ((crc16 bs).extractLsb' 8 8).setWidth 16) ∧
  (∀ (bs : List Byte) (b : Byte), crcMatches (withCrc bs ++ [b]) = true ↔ b = 0x00#8)

/-- R149 and the reading of R147: registers survive encoding and decoding, and a caller's signed or unsigned value survives
with them. -/
def Obligations.RegisterRoundTrip : Prop :=
  (∀ ws : List Half, decodeRegisters (encodeRegisters ws) ws.length = some ws) ∧
  (∀ x : Int, -32768 ≤ x → x ≤ 32767 → callerValue true (BitVec.ofInt 16 x) = x) ∧
  (∀ x : Int, 0 ≤ x → x ≤ 65535 → callerValue false (BitVec.ofInt 16 x) = x)

/-- R150: coils survive packing and unpacking, for every number of them. -/
def Obligations.CoilRoundTrip : Prop :=
  ∀ bs : List Bool,
    unpackCoils (packCoils bs) bs.length = some (bs.map fun b => if b then 0x0001#16 else 0x0000#16)

/-- R143: bit k of byte i is value 8i + k, and the padding bits of the last byte are 0. -/
def Obligations.PackedBitsLowestFirst : Prop :=
  ∀ bs : List Bool,
    (packCoils bs).length = (bs.length + 7) / 8 ∧
    ∀ i k, i < (bs.length + 7) / 8 → k < 8 →
      ((packCoils bs).getD i 0#8).getLsbD k = (if 8 * i + k < bs.length then bs.getD (8 * i + k) false else false)

/-! ## The Transport and the detector -/

/-- R160: LINE_DELIVER appends, in every phase, and changes nothing else. That `d` may be empty here is the model's choice (log
20); R160 names a non-empty string. -/
def Obligations.DeliverAppends : Prop :=
  ∀ (s : State) (d : List Byte), takeEvent (.deliver d) s = .next { s with lineRxq := s.lineRxq ++ d }

/-- R162: SEND, the Core's step. The second clause, that `exec` of each of the eight commands in SENDING is this step, is the
model's reading of R250 (log 11). -/
def Obligations.SendFlushesAndEmits : Prop :=
  ∀ s : State, s.phase = .sending →
    let sent := { s with
      lineRxq := [], lineTx := s.lineTx ++ [s.txb], rxb := [], attempts := 0#16, rxovf := false,
      phase := .awaiting }
    takeEvent .core s = .next sent ∧
    ∀ (i : Instr) (f : Byte), i.isCommand f = true → exec i s = .next sent

/-- R163: POLL, the Core's step. The second clause, that `exec` of each of the eight commands in AWAITING is this step, is the
model's reading of R250 (log 11). -/
def Obligations.PollAppendsAndCounts : Prop :=
  ∀ s : State, s.phase = .awaiting →
    let room := s.params.rxCapacity - s.rxb.length
    let rxb' := s.rxb ++ s.lineRxq.take (min s.lineRxq.length room)
    let att' := s.attempts + 1#16
    let polled := { s with
      lineRxq := [], rxb := rxb', attempts := att',
      rxovf := if room < s.lineRxq.length then true else s.rxovf,
      phase := if isComplete rxb' = true ∨ att'.toNat = s.params.maxAttempts then .validating else .awaiting }
    takeEvent .core s = .next polled ∧
    ∀ (i : Instr) (f : Byte), i.isCommand f = true → exec i s = .next polled

/-- R200: the completion predicate, branch by branch. -/
def Obligations.CompletionPredicateBranches : Prop :=
  ∀ buf : List Byte,
    let n := buf.length
    let fc := buf.getD 1 0#8
    (isComplete buf = true ↔
      2 ≤ n ∧
      (fc.getLsbD 7 = true ∧ 5 ≤ n ∨
       fc.getLsbD 7 = false ∧ (1 ≤ fc.toNat ∧ fc.toNat ≤ 4) ∧ 3 ≤ n ∧ (buf.getD 2 0#8).toNat + 5 ≤ n ∨
       fc.getLsbD 7 = false ∧ ¬ (1 ≤ fc.toNat ∧ fc.toNat ≤ 4) ∧ 8 ≤ n))

/-- R206, R207: once complete, every extension is complete; and a read response is complete at BC + 5 bytes and not one byte
earlier. -/
def Obligations.CompletionIsMonotoneAndExact : Prop :=
  (∀ buf more : List Byte, isComplete buf = true → isComplete (buf ++ more) = true) ∧
  ∀ (slave fc bc : Byte) (rest : List Byte) (last : Byte), 1 ≤ fc.toNat → fc.toNat ≤ 4 →
    rest.length + 4 = bc.toNat + 5 →
    isComplete (slave :: fc :: bc :: rest) = false ∧ isComplete (slave :: fc :: bc :: rest ++ [last]) = true

/-- The six response classes (R201-R203) in the POLL that classifies them (log 12): complete once there are 5, BC + 5 or 8
bytes, or the budget is spent; outside AWAITING nothing changes. -/
def Obligations.ResponseClassesComplete : Prop :=
  ∀ (s : State) (slave bc : Byte) (fn : BitVec 7),
    let after : Nat → State := fun bound =>
      if s.phase = .awaiting ∧ (bound ≤ s.rxb.length ∨ s.attempts.toNat = s.params.maxAttempts) then
        { s with phase := .validating }
      else s
    exec (.rspExc slave fn) s = .next (after 5) ∧
    exec (.rspRead01 slave bc) s = .next (after (bc.toNat + 5)) ∧
    exec (.rspRead02 slave bc) s = .next (after (bc.toNat + 5)) ∧
    exec (.rspRead03 slave bc) s = .next (after (bc.toNat + 5)) ∧
    exec (.rspRead04 slave bc) s = .next (after (bc.toNat + 5)) ∧
    exec (.rspEcho slave fn) s = .next (after 8)

/-! ## VALIDATE -/

/-- R312, R230: the order of VALIDATE's checks, for each of the eight commands. Each failure writes only what its case shows. -/
def Obligations.ValidateChecksInOrder : Prop :=
  ∀ (s : State) (i : Instr) (f : Byte), i.isCommand f = true → s.phase = .validating → s.act.func = f →
    let c := crc16 (s.rxb.take (s.rxb.length - 2))
    let good := c.toNat = (s.rxb.getD (s.rxb.length - 2) 0#8).toNat + 256 * (s.rxb.getD (s.rxb.length - 1) 0#8).toNat
    (s.rxb = [] → exec i s = .next { s with code := .noResponse, phase := .failed }) ∧
    (s.rxb.length = 1 → exec i s = .next { s with code := .frameCorruption, phase := .failed }) ∧
    (2 ≤ s.rxb.length → ¬ good →
      exec i s = .next { s with crc := c, code := .frameCorruption, phase := .failed }) ∧
    (2 ≤ s.rxb.length → good → s.rxb.getD 0 0#8 ≠ s.act.slave →
      exec i s = .next { s with crc := c, code := .addressMismatch, phase := .failed }) ∧
    (3 ≤ s.rxb.length → good → s.rxb.getD 0 0#8 = s.act.slave → s.rxb.getD 1 0#8 = f ||| 0x80#8 →
      exec i s = .next { s with
        crc := c, excCode := s.rxb.getD 2 0#8, code := .slaveException, phase := .failed }) ∧
    (2 ≤ s.rxb.length → good → s.rxb.getD 0 0#8 = s.act.slave → s.rxb.getD 1 0#8 ≠ f ||| 0x80#8 →
      ∃ t, exec i s = .next t ∧ t.crc = c ∧ t.excCode = s.excCode ∧
        (isRead f = true → t.code = .ok ∧ t.phase = .completed ∨ t.code = .decodeError ∧ t.phase = .failed) ∧
        (isWrite f = true → (t.code = .ok ∨ t.code = .writeNotConfirmed) ∧ t.phase = .completed))

/-- R229: a buffer that passes the CRC check and the slave check of a legal active request has at least 3 bytes. -/
def Obligations.ExceptionByteAlwaysPresent : Prop :=
  ∀ s : State, boundsOk s.act = true → 2 ≤ s.rxb.length → crcMatches s.rxb = true →
    s.rxb.getD 0 0#8 = s.act.slave → 3 ≤ s.rxb.length

/-- R148: the coil decoder of RD_COILS and RD_DISCRETE in VALIDATE, on every buffer that passes the checks before it. The payload
`data` is r[3 .. n-2), empty for a buffer of up to 5 bytes (R225). -/
def Obligations.CoilReadDecodes : Prop :=
  ∀ (s : State) (i : Instr) (f : Byte),
    i.isCommand f = true → (f = 0x01#8 ∨ f = 0x02#8) → s.phase = .validating → s.act.func = f →
    2 ≤ s.rxb.length →
    let body := s.rxb.take (s.rxb.length - 2)
    let c := crc16 body
    s.rxb.drop (s.rxb.length - 2) = le16 c →
    s.rxb.getD 0 0#8 = s.act.slave → s.rxb.getD 1 0#8 ≠ f ||| 0x80#8 →
    let data := body.drop 3
    let n := s.act.qty.toNat
    ((n + 7) / 8 ≤ data.length →
      exec i s = .next { s with
        crc := c
        res := ((List.range n).map fun k => if (data.getD (k / 8) 0#8).getLsbD (k % 8) then 0x0001#16 else 0x0000#16) ++
          s.res.drop n
        resValid := true, code := .ok, phase := .completed }) ∧
    (data.length < (n + 7) / 8 →
      exec i s = .next { s with crc := c, code := .decodeError, phase := .failed }) ∧
    (s.rxb.length ≤ 5 → 1 ≤ n →
      exec i s = .next { s with crc := c, code := .decodeError, phase := .failed })

/-- R145, R146: the register decoder of RD_HOLDING and RD_INPUT in VALIDATE, on every buffer that passes the checks before it. The
payload `data` is r[3 .. n-2), empty for a buffer of up to 5 bytes (R225). -/
def Obligations.RegisterReadDecodes : Prop :=
  ∀ (s : State) (i : Instr) (f : Byte),
    i.isCommand f = true → (f = 0x03#8 ∨ f = 0x04#8) → s.phase = .validating → s.act.func = f →
    2 ≤ s.rxb.length →
    let body := s.rxb.take (s.rxb.length - 2)
    let c := crc16 body
    s.rxb.drop (s.rxb.length - 2) = le16 c →
    s.rxb.getD 0 0#8 = s.act.slave → s.rxb.getD 1 0#8 ≠ f ||| 0x80#8 →
    let data := body.drop 3
    let n := s.act.qty.toNat
    (data.length = 2 * n →
      exec i s = .next { s with
        crc := c
        res := ((List.range n).map fun k =>
          BitVec.ofNat 16 ((data.getD (2 * k) 0#8).toNat * 256 + (data.getD (2 * k + 1) 0#8).toNat)) ++ s.res.drop n
        resValid := true, code := .ok, phase := .completed }) ∧
    (data.length ≠ 2 * n →
      exec i s = .next { s with crc := c, code := .decodeError, phase := .failed }) ∧
    (s.rxb.length ≤ 5 → 1 ≤ n →
      exec i s = .next { s with crc := c, code := .decodeError, phase := .failed })

/-- R228, R232: the echo check of the four writes in VALIDATE, on every buffer that passes the checks before it. The payload `p` is
r[2 .. n-2), empty for a buffer of up to 4 bytes (R225); one of fewer than 4 bytes is no echo. -/
def Obligations.WriteEchoDecides : Prop :=
  ∀ (s : State) (i : Instr) (f : Byte),
    i.isCommand f = true → isWrite f = true → s.phase = .validating → s.act.func = f →
    2 ≤ s.rxb.length →
    let body := s.rxb.take (s.rxb.length - 2)
    let c := crc16 body
    s.rxb.drop (s.rxb.length - 2) = le16 c →
    s.rxb.getD 0 0#8 = s.act.slave → s.rxb.getD 1 0#8 ≠ f ||| 0x80#8 →
    (f = 0x05#8 → s.act.qty = 0x0000#16 ∨ s.act.qty = 0x0001#16) →
    let p := body.drop 2
    let wire := if f = 0x05#8 then (if s.act.qty = 0x0001#16 then 0xFF00#16 else 0x0000#16) else s.act.qty
    (p.take 4 = be16 s.act.addr ++ be16 wire →
      exec i s = .next { s with crc := c, confirmed := true, code := .ok, phase := .completed }) ∧
    (p.take 4 ≠ be16 s.act.addr ++ be16 wire →
      exec i s = .next { s with crc := c, confirmed := false, code := .writeNotConfirmed, phase := .completed }) ∧
    (s.rxb.length < 8 →
      exec i s = .next { s with crc := c, confirmed := false, code := .writeNotConfirmed, phase := .completed })

/-- R224: an exception response with a correct CRC, from the addressed slave, to each of the eight commands. -/
def Obligations.SlaveExceptionReported : Prop :=
  ∀ (s : State) (i : Instr) (f exc : Byte) (rest : List Byte),
    i.isCommand f = true → s.phase = .validating → s.act.func = f →
    s.rxb = [s.act.slave, f ||| 0x80#8, exc] ++ rest ++ le16 (crc16 ([s.act.slave, f ||| 0x80#8, exc] ++ rest)) →
    exec i s = .next { s with
      crc := crc16 ([s.act.slave, f ||| 0x80#8, exc] ++ rest)
      excCode := exc, code := .slaveException, phase := .failed }

/-! ## The Host's registers -/

/-- R50: a Host read of any offset and width changes no state of the core. -/
def Obligations.HostReadHasNoSideEffect : Prop :=
  ∀ (s : State) (off : Half) (width : Nat), ∃ (d : Half) (k : Nat),
    takeEvent (.hostRead off width) s = .next { s with hostData := some d, draws := k }

/-- R27: the fields of STATUS as the Host reads them, with the encodings of PHASE (R23) and CODE (R28) written out. -/
def Obligations.StatusFieldsReadBack : Prop :=
  ∀ s : State, ∃ w : Half,
    takeEvent (.hostRead 0x0002#16 2) s = .next { s with hostData := some w } ∧
    w.extractLsb' 0 3 = (match s.phase with
      | .idle => 0#3
      | .sending => 1#3
      | .awaiting => 2#3
      | .validating => 3#3
      | .completed => 4#3
      | .failed => 5#3) ∧
    w.getLsbD 3 = (decide (s.phase = .completed) || decide (s.phase = .failed)) ∧
    w.extractLsb' 4 4 = (match s.code with
      | .ok => 0#4
      | .invalidArgument => 1#4
      | .noResponse => 2#4
      | .frameCorruption => 3#4
      | .addressMismatch => 4#4
      | .slaveException => 5#4
      | .decodeError => 6#4
      | .writeNotConfirmed => 7#4
      | .aborted => 8#4) ∧
    w.getLsbD 8 = s.confirmed ∧ w.getLsbD 9 = s.overrun ∧ w.getLsbD 10 = s.resValid ∧ w.getLsbD 11 = s.rxovf ∧
    w.extractLsb' 12 4 = 0#4

/-- What the single registers read (R26, R30-R39), at their offsets of R25. -/
def Obligations.SingleRegistersRead : Prop :=
  ∀ s : State,
    let reads : Half → Half → Prop := fun off v =>
      takeEvent (.hostRead off 2) s = .next { s with hostData := some v }
    reads 0x0000#16 0x0000#16 ∧ reads 0x0004#16 (0#8 ++ s.excCode) ∧ reads 0x0006#16 s.attempts ∧
    reads 0x0008#16 (BitVec.ofNat 16 s.rxb.length) ∧ reads 0x000A#16 (BitVec.ofNat 16 s.txb.length) ∧
    reads 0x000C#16 s.crc ∧ reads 0x0010#16 (0#8 ++ s.req.slave) ∧ reads 0x0012#16 (0#8 ++ s.req.func) ∧
    reads 0x0014#16 s.req.addr ∧ reads 0x0016#16 s.req.qty ∧
    reads 0x0018#16 (if s.req.signed then 0x0001#16 else 0x0000#16)

/-- What the array windows of R25 read where the spec gives a value: a written VAL entry, RES while RES_VALID = 1 and below
ACT.QTYVAL, and the bytes of RXB and TXB (R41-R44); and that every read of RXB and TXB has bits [15:8] = 0 (R67), the bytes at
and beyond their lengths being any (log 16). -/
def Obligations.WindowsReadTheirArrays : Prop :=
  ∀ (s : State) (i : Nat),
    let reads : Nat → Half → Prop := fun base v =>
      takeEvent (.hostRead (BitVec.ofNat 16 (base + 2 * i)) 2) s = .next { s with hostData := some v }
    (∀ v, i < 2040 → s.val.read i = some v → reads 0x1000 v) ∧
    (∀ v, i < 2000 → s.resValid = true → i < s.act.qty.toNat → s.res[i]? = some v → reads 0x2000 v) ∧
    (∀ b : Byte, i < 2048 → s.rxb[i]? = some b → reads 0x3000 (0#8 ++ b)) ∧
    (∀ b : Byte, i < 264 → s.txb[i]? = some b → reads 0x4000 (0#8 ++ b)) ∧
    (∀ base, base = 0x3000 ∧ i < 2048 ∨ base = 0x4000 ∧ i < 264 → ∃ (b : Byte) (k : Nat),
      takeEvent (.hostRead (BitVec.ofNat 16 (base + 2 * i)) 2) s =
        .next { s with hostData := some (0#8 ++ b), draws := k })

/-- R63, R64: a reserved offset reads 0x0000; a write to it, to a read-only register or to a read-only window changes nothing. -/
def Obligations.ReservedAndReadOnlyIgnoreWrites : Prop :=
  ∀ (s : State) (off : Half) (v : Half), off.toNat % 2 = 0 →
    let a := off.toNat
    ((0x000C < a ∧ a < 0x0010 ∨ 0x0018 < a ∧ a < 0x1000 ∨ 0x1FF0 ≤ a ∧ a < 0x2000 ∨ 0x2FA0 ≤ a ∧ a < 0x3000 ∨
        0x4210 ≤ a) →
      takeEvent (.hostRead off 2) s = .next { s with hostData := some 0x0000#16 } ∧
      takeEvent (.hostWrite off 2 v) s = .next s) ∧
    ((0x0002 ≤ a ∧ a ≤ 0x000C ∨ 0x2000 ≤ a ∧ a < 0x2FA0 ∨ 0x3000 ≤ a ∧ a < 0x4210) →
      takeEvent (.hostWrite off 2 v) s = .next s)

/-- R62: an access at an odd offset or of another width. The write is ignored; the read returns some value and changes no
state of the core. -/
def Obligations.MisalignedAccessIsIgnored : Prop :=
  ∀ (s : State) (off : Half) (width : Nat) (v : Half), off.toNat % 2 = 1 ∨ width ≠ 2 →
    takeEvent (.hostWrite off width v) s = .next s ∧
    ∃ d k, takeEvent (.hostRead off width) s = .next { s with hostData := some d, draws := k }

/-- R35-R39: a write to a request register stores the register's bits and drops the reserved ones, and changes nothing
else. -/
def Obligations.RequestRegistersStore : Prop :=
  ∀ (s : State) (v : Half),
    takeEvent (.hostWrite 0x0010#16 2 v) s = .next { s with req := { s.req with slave := v.extractLsb' 0 8 } } ∧
    takeEvent (.hostWrite 0x0012#16 2 v) s = .next { s with req := { s.req with func := v.extractLsb' 0 8 } } ∧
    takeEvent (.hostWrite 0x0014#16 2 v) s = .next { s with req := { s.req with addr := v } } ∧
    takeEvent (.hostWrite 0x0016#16 2 v) s = .next { s with req := { s.req with qty := v } } ∧
    takeEvent (.hostWrite 0x0018#16 2 v) s = .next { s with req := { s.req with signed := v.getLsbD 0 } }

/-- R41: a write to VAL[i] stores the value there, leaves every other entry and everything else alone, and keeps VAL's
canonical form. -/
def Obligations.ValWriteStoresOneEntry : Prop :=
  ∀ (s : State) (i : Nat) (v : Half), i < 2040 → s.val.wf →
    ∃ m : Memory, takeEvent (.hostWrite (BitVec.ofNat 16 (0x1000 + 2 * i)) 2 v) s = .next { s with val := m } ∧
      m.wf ∧ m.read i = some v ∧ ∀ k ≠ i, m.read k = s.val.read k

/-! ## Rules of the whole machine -/

/-- R251: the complete transition relation of PHASE; no other step changes it (reset apart, R340). -/
def Obligations.PhaseChangesAreTheTable : Prop :=
  ∀ (s t : State) (e : Event), takeEvent e s = .next t → e ≠ .reset → t.phase ≠ s.phase →
    (e.setsCtrlBit 0 = true ∧ s.phase.busy = false ∧
      (t.phase = .failed ∧ t.code = .invalidArgument ∨ t.phase = .sending ∧ t.code = .ok)) ∨
    (e = .core ∧ s.phase = .sending ∧ t.phase = .awaiting) ∨
    (e = .core ∧ s.phase = .awaiting ∧ t.phase = .validating ∧
      (isComplete t.rxb = true ∨ t.attempts.toNat = t.params.maxAttempts)) ∨
    (s.phase = .awaiting ∧ e.setsCtrlBit 1 = true ∧ e.setsCtrlBit 0 = false ∧
      t.phase = .failed ∧ t.code = .aborted) ∨
    (s.phase = .awaiting ∧ e.setsCtrlBit 1 = true ∧ e.setsCtrlBit 0 = true ∧
      (t.phase = .failed ∧ t.code = .invalidArgument ∨ t.phase = .sending ∧ t.code = .ok)) ∨
    (e = .core ∧ s.phase = .validating ∧ (t.phase = .completed ∨ t.phase = .failed))

/-- R75: in a done phase the results do not change until an accepted START (or reset). -/
def Obligations.ResultsStableWhileDone : Prop :=
  ∀ (s t : State) (e : Event), s.phase.done = true → takeEvent e s = .next t → e ≠ .reset →
    e.setsCtrlBit 0 = false →
    t.phase = s.phase ∧ t.code = s.code ∧ t.excCode = s.excCode ∧ t.confirmed = s.confirmed ∧
    t.resValid = s.resValid ∧ t.res = s.res ∧ t.rxb = s.rxb ∧ t.attempts = s.attempts ∧ t.txb = s.txb ∧
    t.act = s.act

/-- R46, R73: a frame is emitted only by the Core's SEND, one at a time, and it is TXB. -/
def Obligations.OnlySendTransmits : Prop :=
  ∀ (s t : State) (e : Event), takeEvent e s = .next t → e ≠ .reset →
    t.lineTx = s.lineTx ∨ (e = .core ∧ s.phase = .sending ∧ t.lineTx = s.lineTx ++ [s.txb])

/-- R358, R77: what the Host writes to REQ and VAL while the phase is busy does not reach the transaction in flight. Two busy
states that differ in REQ and VAL alone have Core turns that differ in them alone. -/
def Obligations.BusyRequestWritesAreInvisible : Prop :=
  ∀ (s t : State) (q : Request) (m : Memory), s.phase.busy = true → takeEvent .core s = .next t →
    takeEvent .core { s with req := q, val := m } = .next { t with req := q, val := m }

/-- R22, R40: only a Host write to a request register changes REQ, only a Host write to an entry of VAL changes VAL, and only an
accepted START changes ACT (reset apart, R340). -/
def Obligations.RequestChangesOnlyByHost : Prop :=
  ∀ (s t : State) (e : Event), takeEvent e s = .next t → e ≠ .reset →
    ((∀ off width v, e ≠ .hostWrite off width v) → t.req = s.req ∧ t.val = s.val) ∧
    (∀ off width v, e = .hostWrite off width v →
      (off.toNat < 0x0010 ∨ 0x0018 < off.toNat → t.req = s.req) ∧
      (off.toNat < 0x1000 ∨ 0x1FEE < off.toNat → t.val = s.val)) ∧
    (e.isCtrlWrite = true → t.req = s.req ∧ t.val = s.val) ∧
    (e.setsCtrlBit 0 = false → t.act = s.act) ∧
    (s.phase.busy = true → e.setsCtrlBit 1 = false ∨ s.phase ≠ .awaiting → t.act = s.act)

/-- R49: RXOVF is set only by a POLL that dropped bytes, and cleared by START and SEND, and by nothing else but reset. -/
def Obligations.RxovfTellsDroppedBytes : Prop :=
  State.reset.rxovf = false ∧
  (∀ s : State, s.phase.busy = false → ∃ t, exec .start s = .next t ∧ t.rxovf = false) ∧
  (∀ s : State, s.phase = .sending → ∃ t, takeEvent .core s = .next t ∧ t.rxovf = false) ∧
  ∀ (s t : State) (e : Event), takeEvent e s = .next t →
    (s.rxovf = false → t.rxovf = true →
      e = .core ∧ s.phase = .awaiting ∧ s.params.rxCapacity < s.rxb.length + s.lineRxq.length) ∧
    (s.rxovf = true → t.rxovf = false →
      e = .reset ∨ e.setsCtrlBit 0 = true ∨ (e = .core ∧ s.phase = .sending)) ∧
    (e = .core → s.phase = .awaiting → s.rxb.length ≤ s.params.rxCapacity →
      s.params.rxCapacity < s.rxb.length + s.lineRxq.length → t.rxovf = true)

/-- R34: CRC changes only by an accepted START that builds a frame, to the CRC of its body, and by a VALIDATE, to the CRC of
the received prefix (and by reset, to the seed). -/
def Obligations.CrcHoldsLastComputation : Prop :=
  ∀ (s t : State) (e : Event), takeEvent e s = .next t → t.crc ≠ s.crc →
    (e.setsCtrlBit 0 = true ∧ t.phase = .sending ∧ t.crc = crc16 (crcBody t.txb)) ∨
    (e = .core ∧ s.phase = .validating ∧ 2 ≤ s.rxb.length ∧ t.crc = crc16 (crcBody s.rxb)) ∨
    (e = .reset ∧ t.crc = 0xFFFF#16)

/-- R30, R42, R47 as rules of the whole machine: a nonzero EXC_CODE comes only from a SlaveException outcome, RES and RES_VALID
only from a read that completed, CONFIRMED only from a write that completed. -/
def Obligations.ResultsComeOnlyFromValidate : Prop :=
  ∀ (s t : State) (e : Event), takeEvent e s = .next t → e ≠ .reset →
    (t.excCode ≠ s.excCode → t.excCode ≠ 0#8 →
      e = .core ∧ s.phase = .validating ∧ t.phase = .failed ∧ t.code = .slaveException ∧
        (3 ≤ s.rxb.length → s.rxb[2]? = some t.excCode)) ∧
    (t.res ≠ s.res ∨ (t.resValid = true ∧ s.resValid = false) →
      e = .core ∧ s.phase = .validating ∧ isRead s.act.func = true ∧ t.phase = .completed ∧ t.code = .ok ∧
        t.resValid = true) ∧
    (t.confirmed = true → s.confirmed = false →
      e = .core ∧ s.phase = .validating ∧ isWrite s.act.func = true ∧ t.phase = .completed ∧ t.code = .ok)

/-! ## Programs and transactions -/

/-- R98, R99: what the assembly lines expand to, and that the expansion of a command line, run from a state that is not busy with
nothing in between, leaves the state that the command itself leaves from the request registers, and the first entries of VAL, that
it filled. Lines as data are the model's form of R98 (log 22). -/
def Obligations.CommandLineRunsCommand : Prop :=
  (∀ (s : State) (i : Instr) (r : Request) (rest : List Event), s.phase.busy = false → encode i = .request r →
    run 6 { s with inbox := expand i [] ++ rest } = exec i { s with req := r, inbox := rest }) ∧
  (∀ (s : State) (i : Instr) (r : Request) (vals : List Half) (rest : List Event), s.phase.busy = false →
    encode i = .request r → vals.length ≤ 2040 → s.val.wf →
    ∃ m : Memory, m.wf ∧ (∀ k, m.read k = if k < vals.length then vals[k]? else s.val.read k) ∧
      run (vals.length + 6) { s with inbox := expand i vals ++ rest } =
        exec i { s with req := r, val := m, inbox := rest }) ∧
  (∀ (slave addr x : Nat) (signed on : Bool) (bits : List Bool) (words : List Int), slave < 256 →
    let line : Byte → List Half → Nat → Bool → List Event := fun func vals x signed =>
      (vals.zipIdx.map fun p => .hostWrite (BitVec.ofNat 16 (0x1000 + 2 * p.2)) 2 p.1) ++
      [.hostWrite 0x0010#16 2 (BitVec.ofNat 16 slave), .hostWrite 0x0012#16 2 (0#8 ++ func),
       .hostWrite 0x0014#16 2 (BitVec.ofNat 16 addr), .hostWrite 0x0016#16 2 (BitVec.ofNat 16 x),
       .hostWrite 0x0018#16 2 (if signed then 1#16 else 0#16), .hostWrite 0x0000#16 2 0x0001#16]
    (CommandLine.rdCoils slave addr x).assemble = line 0x01#8 [] x false ∧
    (CommandLine.rdDiscrete slave addr x).assemble = line 0x02#8 [] x false ∧
    (CommandLine.rdHolding slave addr x signed).assemble = line 0x03#8 [] x signed ∧
    (CommandLine.rdInput slave addr x signed).assemble = line 0x04#8 [] x signed ∧
    (CommandLine.wrCoil slave addr on).assemble = line 0x05#8 [] (if on then 1 else 0) false ∧
    (CommandLine.wrReg slave addr x).assemble = line 0x06#8 [] x false ∧
    (CommandLine.wrCoils slave addr bits).assemble =
      line 0x0F#8 (bits.map fun b => if b then 0x0001#16 else 0x0000#16) bits.length false ∧
    (CommandLine.wrRegs slave addr words).assemble =
      line 0x10#8 (words.map fun w => BitVec.ofNat 16 (w % 65536).toNat) words.length false) ∧
  CommandLine.wait.assemble = [.hostWait] ∧
  CommandLine.abort.assemble = [.hostWrite 0x0000#16 2 0x0002#16] ∧
  CommandLine.clro.assemble = [.hostWrite 0x0000#16 2 0x0004#16]

/-- R344: a WAIT in IDLE without a START never finds DONE = 1 and waits for ever: after every number of steps, whatever the other
agents do, the phase is IDLE, the WAIT is still pending, the Host's program after it has not moved, and the last word read has
DONE = 0. -/
def Obligations.WaitInIdleNeverEnds : Prop :=
  ∀ (s : State) (k : Nat) (others rest : List Event), s.phase = .idle →
    (∀ e ∈ others, e.isHost = false) → (∀ e ∈ rest.head?, e.isHost = true) →
    ∃ t, run k { s with inbox := .hostWait :: others ++ rest } = .next t ∧ t.phase = .idle ∧
      .hostWait ∈ t.inbox ∧ rest <:+ t.inbox ∧ (0 < k → ∃ w, t.hostData = some w ∧ w.getLsbD 3 = false)

/-- R267, R372: every accepted transaction ends. From a busy state that meets the invariant, whatever quiet events of the Host
and the Line stand between, `stepsLeft` Core steps end it: one SEND, the POLLs of the budget, one VALIDATE. And so does a WAIT
for it (R99): it ends, whatever the Line and the Core do meanwhile, with DONE = 1 in the word read, in a done phase, before any later
step of the Host. -/
def Obligations.EveryTransactionEnds : Prop :=
  (∀ (s : State) (es rest : List Event), Inv s → s.phase.busy = true → (∀ e ∈ es, e.quiet = true) →
    stepsLeft s ≤ es.count .core →
    ∃ t, run es.length { s with inbox := es ++ rest } = .next t ∧ t.phase.done = true) ∧
  ∀ (s : State) (others rest : List Event), Inv s → s.phase.busy = true →
    (∀ e ∈ others, e = .core ∨ ∃ d, e = .deliver d) → (∀ e ∈ rest.head?, e.isHost = true) →
    ∃ k t left, k ≤ 2 * (others.length + stepsLeft s) + 1 ∧
      run k { s with inbox := .hostWait :: others ++ rest } = .next t ∧ t.phase.done = true ∧
      left <:+ others ∧ t.inbox = left ++ rest ∧ ∃ w, t.hostData = some w ∧ w.getLsbD 3 = true

/-- R353: under LINE_OK, for a frame that is complete and none of whose proper prefixes is, VALIDATE is reached with RXB = r,
nothing left on the line and everything else as it was, however the Line cuts r into deliveries. -/
def Obligations.LinePremiseDeliversResponse : Prop :=
  ∀ (s : State) (polls : List (List (List Byte))) (r : List Byte) (rest : List Event),
    s.params.wf → s.phase = .awaiting → s.rxb = [] → s.lineRxq = [] → s.attempts = 0#16 →
    LineOk s.params polls r → IsFrame r →
    run (pollSchedule polls).length { s with inbox := pollSchedule polls ++ rest } = .next { s with
      phase := .validating, rxb := r, attempts := BitVec.ofNat 16 polls.length, inbox := rest }

/-- R256, R257 and S1, end to end: a START of a legal register read, its SEND over any noise, the slave's frame of the words
`ws` under LINE_OK, and VALIDATE, give RES = ws and one frame on the line. -/
def Obligations.RegisterReadTransaction : Prop :=
  ∀ (s : State) (f : Byte) (ws : List Half) (polls : List (List (List Byte))) (rest : List Event),
    s.params.wf → s.phase.busy = false → (f = 0x03#8 ∨ f = 0x04#8) → s.req.func = f →
    1 ≤ s.req.slave.toNat → s.req.slave.toNat ≤ 247 →
    s.req.qty.toNat = ws.length → 1 ≤ ws.length → ws.length ≤ 125 →
    LineOk s.params polls
      (withCrc ([s.req.slave, f, BitVec.ofNat 8 (2 * ws.length)] ++ encodeRegisters ws)) →
    let es := [wr 0x0000#16 0x0001#16, .core] ++ pollSchedule polls ++ [.core]
    ∃ t, run es.length { s with inbox := es ++ rest } = .next t ∧
      t.phase = .completed ∧ t.code = .ok ∧ t.resValid = true ∧ t.confirmed = false ∧
      (∀ i < ws.length, t.res[i]? = ws[i]?) ∧
      t.lineTx = s.lineTx ++ [withCrc ([s.req.slave, f] ++ be16 s.req.addr ++ be16 s.req.qty)] ∧
      t.attempts.toNat = polls.length ∧ t.inbox = rest

/-- R258, R259 and S2, end to end: a START of a legal single write, its SEND, an echo under LINE_OK of the sent address and of
the wire value `w`, and VALIDATE, complete with CONFIRMED = 1 exactly if `w` is what was sent. -/
def Obligations.SingleWriteTransaction : Prop :=
  ∀ (s : State) (f : Byte) (w : Half) (polls : List (List (List Byte))) (rest : List Event),
    s.params.wf → s.phase.busy = false → s.req.func = f →
    (f = 0x05#8 ∧ (s.req.qty = 0x0000#16 ∨ s.req.qty = 0x0001#16) ∨ f = 0x06#8) →
    1 ≤ s.req.slave.toNat → s.req.slave.toNat ≤ 247 →
    LineOk s.params polls (withCrc ([s.req.slave, f] ++ be16 s.req.addr ++ be16 w)) →
    let wire := if f = 0x05#8 then (if s.req.qty = 0x0001#16 then 0xFF00#16 else 0x0000#16) else s.req.qty
    let es := [wr 0x0000#16 0x0001#16, .core] ++ pollSchedule polls ++ [.core]
    ∃ t, run es.length { s with inbox := es ++ rest } = .next t ∧
      t.phase = .completed ∧ t.resValid = false ∧ t.confirmed = decide (w = wire) ∧
      t.code = (if w = wire then .ok else .writeNotConfirmed) ∧
      t.lineTx = s.lineTx ++ [withCrc ([s.req.slave, f] ++ be16 s.req.addr ++ be16 wire)] ∧ t.inbox = rest
end

