-- ==== Sys2Proof/Laws/State.lean ====
section
/-! SUPPORT. One lemma per field per named update of the state, so that no proof unfolds a record update. -/

namespace Sys2Proof.Machine

@[simp] theorem fail_phase (c : OutcomeCode) (s : State) : (fail c s).phase = .failed := rfl
@[simp] theorem fail_code (c : OutcomeCode) (s : State) : (fail c s).code = c := rfl
@[simp] theorem fail_excCode (c : OutcomeCode) (s : State) : (fail c s).excCode = s.excCode := rfl
@[simp] theorem fail_confirmed (c : OutcomeCode) (s : State) : (fail c s).confirmed = s.confirmed := rfl
@[simp] theorem fail_overrun (c : OutcomeCode) (s : State) : (fail c s).overrun = s.overrun := rfl
@[simp] theorem fail_resValid (c : OutcomeCode) (s : State) : (fail c s).resValid = s.resValid := rfl
@[simp] theorem fail_rxovf (c : OutcomeCode) (s : State) : (fail c s).rxovf = s.rxovf := rfl
@[simp] theorem fail_attempts (c : OutcomeCode) (s : State) : (fail c s).attempts = s.attempts := rfl
@[simp] theorem fail_crc (c : OutcomeCode) (s : State) : (fail c s).crc = s.crc := rfl
@[simp] theorem fail_req (c : OutcomeCode) (s : State) : (fail c s).req = s.req := rfl
@[simp] theorem fail_act (c : OutcomeCode) (s : State) : (fail c s).act = s.act := rfl
@[simp] theorem fail_val (c : OutcomeCode) (s : State) : (fail c s).val = s.val := rfl
@[simp] theorem fail_res (c : OutcomeCode) (s : State) : (fail c s).res = s.res := rfl
@[simp] theorem fail_txb (c : OutcomeCode) (s : State) : (fail c s).txb = s.txb := rfl
@[simp] theorem fail_rxb (c : OutcomeCode) (s : State) : (fail c s).rxb = s.rxb := rfl
@[simp] theorem fail_lineRxq (c : OutcomeCode) (s : State) : (fail c s).lineRxq = s.lineRxq := rfl
@[simp] theorem fail_lineTx (c : OutcomeCode) (s : State) : (fail c s).lineTx = s.lineTx := rfl
@[simp] theorem fail_params (c : OutcomeCode) (s : State) : (fail c s).params = s.params := rfl
@[simp] theorem fail_inbox (c : OutcomeCode) (s : State) : (fail c s).inbox = s.inbox := rfl
@[simp] theorem fail_hostData (c : OutcomeCode) (s : State) : (fail c s).hostData = s.hostData := rfl
@[simp] theorem fail_draws (c : OutcomeCode) (s : State) : (fail c s).draws = s.draws := rfl

@[simp] theorem completeWith_phase (c : OutcomeCode) (s : State) : (completeWith c s).phase = .completed := rfl
@[simp] theorem completeWith_code (c : OutcomeCode) (s : State) : (completeWith c s).code = c := rfl
@[simp] theorem completeWith_excCode (c : OutcomeCode) (s : State) : (completeWith c s).excCode = s.excCode := rfl
@[simp] theorem completeWith_confirmed (c : OutcomeCode) (s : State) : (completeWith c s).confirmed = s.confirmed := rfl
@[simp] theorem completeWith_overrun (c : OutcomeCode) (s : State) : (completeWith c s).overrun = s.overrun := rfl
@[simp] theorem completeWith_resValid (c : OutcomeCode) (s : State) : (completeWith c s).resValid = s.resValid := rfl
@[simp] theorem completeWith_rxovf (c : OutcomeCode) (s : State) : (completeWith c s).rxovf = s.rxovf := rfl
@[simp] theorem completeWith_attempts (c : OutcomeCode) (s : State) : (completeWith c s).attempts = s.attempts := rfl
@[simp] theorem completeWith_crc (c : OutcomeCode) (s : State) : (completeWith c s).crc = s.crc := rfl
@[simp] theorem completeWith_req (c : OutcomeCode) (s : State) : (completeWith c s).req = s.req := rfl
@[simp] theorem completeWith_act (c : OutcomeCode) (s : State) : (completeWith c s).act = s.act := rfl
@[simp] theorem completeWith_val (c : OutcomeCode) (s : State) : (completeWith c s).val = s.val := rfl
@[simp] theorem completeWith_res (c : OutcomeCode) (s : State) : (completeWith c s).res = s.res := rfl
@[simp] theorem completeWith_txb (c : OutcomeCode) (s : State) : (completeWith c s).txb = s.txb := rfl
@[simp] theorem completeWith_rxb (c : OutcomeCode) (s : State) : (completeWith c s).rxb = s.rxb := rfl
@[simp] theorem completeWith_lineRxq (c : OutcomeCode) (s : State) : (completeWith c s).lineRxq = s.lineRxq := rfl
@[simp] theorem completeWith_lineTx (c : OutcomeCode) (s : State) : (completeWith c s).lineTx = s.lineTx := rfl
@[simp] theorem completeWith_params (c : OutcomeCode) (s : State) : (completeWith c s).params = s.params := rfl
@[simp] theorem completeWith_inbox (c : OutcomeCode) (s : State) : (completeWith c s).inbox = s.inbox := rfl
@[simp] theorem completeWith_hostData (c : OutcomeCode) (s : State) : (completeWith c s).hostData = s.hostData := rfl
@[simp] theorem completeWith_draws (c : OutcomeCode) (s : State) : (completeWith c s).draws = s.draws := rfl

@[simp] theorem clearForStart_phase (r : Request) (s : State) : (clearForStart r s).phase = s.phase := rfl
@[simp] theorem clearForStart_code (r : Request) (s : State) : (clearForStart r s).code = .ok := rfl
@[simp] theorem clearForStart_excCode (r : Request) (s : State) : (clearForStart r s).excCode = 0#8 := rfl
@[simp] theorem clearForStart_confirmed (r : Request) (s : State) : (clearForStart r s).confirmed = false := rfl
@[simp] theorem clearForStart_overrun (r : Request) (s : State) : (clearForStart r s).overrun = s.overrun := rfl
@[simp] theorem clearForStart_resValid (r : Request) (s : State) : (clearForStart r s).resValid = false := rfl
@[simp] theorem clearForStart_rxovf (r : Request) (s : State) : (clearForStart r s).rxovf = false := rfl
@[simp] theorem clearForStart_attempts (r : Request) (s : State) : (clearForStart r s).attempts = 0#16 := rfl
@[simp] theorem clearForStart_crc (r : Request) (s : State) : (clearForStart r s).crc = s.crc := rfl
@[simp] theorem clearForStart_req (r : Request) (s : State) : (clearForStart r s).req = s.req := rfl
@[simp] theorem clearForStart_act (r : Request) (s : State) : (clearForStart r s).act = r := rfl
@[simp] theorem clearForStart_val (r : Request) (s : State) : (clearForStart r s).val = s.val := rfl
@[simp] theorem clearForStart_res (r : Request) (s : State) : (clearForStart r s).res = s.res := rfl
@[simp] theorem clearForStart_txb (r : Request) (s : State) : (clearForStart r s).txb = s.txb := rfl
@[simp] theorem clearForStart_rxb (r : Request) (s : State) : (clearForStart r s).rxb = [] := rfl
@[simp] theorem clearForStart_lineRxq (r : Request) (s : State) : (clearForStart r s).lineRxq = s.lineRxq := rfl
@[simp] theorem clearForStart_lineTx (r : Request) (s : State) : (clearForStart r s).lineTx = s.lineTx := rfl
@[simp] theorem clearForStart_params (r : Request) (s : State) : (clearForStart r s).params = s.params := rfl
@[simp] theorem clearForStart_inbox (r : Request) (s : State) : (clearForStart r s).inbox = s.inbox := rfl
@[simp] theorem clearForStart_hostData (r : Request) (s : State) : (clearForStart r s).hostData = s.hostData := rfl
@[simp] theorem clearForStart_draws (r : Request) (s : State) : (clearForStart r s).draws = s.draws + 1 := rfl

@[simp] theorem buildFrame_phase (r : Request) (v : Nat → Half) (s : State) : (buildFrame r v s).phase = s.phase := rfl
@[simp] theorem buildFrame_code (r : Request) (v : Nat → Half) (s : State) : (buildFrame r v s).code = s.code := rfl
@[simp] theorem buildFrame_excCode (r : Request) (v : Nat → Half) (s : State) : (buildFrame r v s).excCode = s.excCode := rfl
@[simp] theorem buildFrame_confirmed (r : Request) (v : Nat → Half) (s : State) : (buildFrame r v s).confirmed = s.confirmed := rfl
@[simp] theorem buildFrame_overrun (r : Request) (v : Nat → Half) (s : State) : (buildFrame r v s).overrun = s.overrun := rfl
@[simp] theorem buildFrame_resValid (r : Request) (v : Nat → Half) (s : State) : (buildFrame r v s).resValid = s.resValid := rfl
@[simp] theorem buildFrame_rxovf (r : Request) (v : Nat → Half) (s : State) : (buildFrame r v s).rxovf = s.rxovf := rfl
@[simp] theorem buildFrame_attempts (r : Request) (v : Nat → Half) (s : State) : (buildFrame r v s).attempts = s.attempts := rfl
@[simp] theorem buildFrame_crc (r : Request) (v : Nat → Half) (s : State) : (buildFrame r v s).crc = crc16 (requestBody r v) := rfl
@[simp] theorem buildFrame_req (r : Request) (v : Nat → Half) (s : State) : (buildFrame r v s).req = s.req := rfl
@[simp] theorem buildFrame_act (r : Request) (v : Nat → Half) (s : State) : (buildFrame r v s).act = s.act := rfl
@[simp] theorem buildFrame_val (r : Request) (v : Nat → Half) (s : State) : (buildFrame r v s).val = s.val := rfl
@[simp] theorem buildFrame_res (r : Request) (v : Nat → Half) (s : State) : (buildFrame r v s).res = s.res := rfl
@[simp] theorem buildFrame_txb (r : Request) (v : Nat → Half) (s : State) : (buildFrame r v s).txb = withCrc (requestBody r v) := rfl
@[simp] theorem buildFrame_rxb (r : Request) (v : Nat → Half) (s : State) : (buildFrame r v s).rxb = s.rxb := rfl
@[simp] theorem buildFrame_lineRxq (r : Request) (v : Nat → Half) (s : State) : (buildFrame r v s).lineRxq = s.lineRxq := rfl
@[simp] theorem buildFrame_lineTx (r : Request) (v : Nat → Half) (s : State) : (buildFrame r v s).lineTx = s.lineTx := rfl
@[simp] theorem buildFrame_params (r : Request) (v : Nat → Half) (s : State) : (buildFrame r v s).params = s.params := rfl
@[simp] theorem buildFrame_inbox (r : Request) (v : Nat → Half) (s : State) : (buildFrame r v s).inbox = s.inbox := rfl
@[simp] theorem buildFrame_hostData (r : Request) (v : Nat → Half) (s : State) : (buildFrame r v s).hostData = s.hostData := rfl
@[simp] theorem buildFrame_draws (r : Request) (v : Nat → Half) (s : State) : (buildFrame r v s).draws = s.draws := rfl

@[simp] theorem deliver_phase (d : List Byte) (s : State) : (deliver d s).phase = s.phase := rfl
@[simp] theorem deliver_code (d : List Byte) (s : State) : (deliver d s).code = s.code := rfl
@[simp] theorem deliver_excCode (d : List Byte) (s : State) : (deliver d s).excCode = s.excCode := rfl
@[simp] theorem deliver_confirmed (d : List Byte) (s : State) : (deliver d s).confirmed = s.confirmed := rfl
@[simp] theorem deliver_overrun (d : List Byte) (s : State) : (deliver d s).overrun = s.overrun := rfl
@[simp] theorem deliver_resValid (d : List Byte) (s : State) : (deliver d s).resValid = s.resValid := rfl
@[simp] theorem deliver_rxovf (d : List Byte) (s : State) : (deliver d s).rxovf = s.rxovf := rfl
@[simp] theorem deliver_attempts (d : List Byte) (s : State) : (deliver d s).attempts = s.attempts := rfl
@[simp] theorem deliver_crc (d : List Byte) (s : State) : (deliver d s).crc = s.crc := rfl
@[simp] theorem deliver_req (d : List Byte) (s : State) : (deliver d s).req = s.req := rfl
@[simp] theorem deliver_act (d : List Byte) (s : State) : (deliver d s).act = s.act := rfl
@[simp] theorem deliver_val (d : List Byte) (s : State) : (deliver d s).val = s.val := rfl
@[simp] theorem deliver_res (d : List Byte) (s : State) : (deliver d s).res = s.res := rfl
@[simp] theorem deliver_txb (d : List Byte) (s : State) : (deliver d s).txb = s.txb := rfl
@[simp] theorem deliver_rxb (d : List Byte) (s : State) : (deliver d s).rxb = s.rxb := rfl
@[simp] theorem deliver_lineRxq (d : List Byte) (s : State) : (deliver d s).lineRxq = s.lineRxq ++ d := rfl
@[simp] theorem deliver_lineTx (d : List Byte) (s : State) : (deliver d s).lineTx = s.lineTx := rfl
@[simp] theorem deliver_params (d : List Byte) (s : State) : (deliver d s).params = s.params := rfl
@[simp] theorem deliver_inbox (d : List Byte) (s : State) : (deliver d s).inbox = s.inbox := rfl
@[simp] theorem deliver_hostData (d : List Byte) (s : State) : (deliver d s).hostData = s.hostData := rfl
@[simp] theorem deliver_draws (d : List Byte) (s : State) : (deliver d s).draws = s.draws := rfl

@[simp] theorem send_phase (s : State) : (send s).phase = .awaiting := rfl
@[simp] theorem send_code (s : State) : (send s).code = s.code := rfl
@[simp] theorem send_excCode (s : State) : (send s).excCode = s.excCode := rfl
@[simp] theorem send_confirmed (s : State) : (send s).confirmed = s.confirmed := rfl
@[simp] theorem send_overrun (s : State) : (send s).overrun = s.overrun := rfl
@[simp] theorem send_resValid (s : State) : (send s).resValid = s.resValid := rfl
@[simp] theorem send_rxovf (s : State) : (send s).rxovf = false := rfl
@[simp] theorem send_attempts (s : State) : (send s).attempts = 0#16 := rfl
@[simp] theorem send_crc (s : State) : (send s).crc = s.crc := rfl
@[simp] theorem send_req (s : State) : (send s).req = s.req := rfl
@[simp] theorem send_act (s : State) : (send s).act = s.act := rfl
@[simp] theorem send_val (s : State) : (send s).val = s.val := rfl
@[simp] theorem send_res (s : State) : (send s).res = s.res := rfl
@[simp] theorem send_txb (s : State) : (send s).txb = s.txb := rfl
@[simp] theorem send_rxb (s : State) : (send s).rxb = [] := rfl
@[simp] theorem send_lineRxq (s : State) : (send s).lineRxq = [] := rfl
@[simp] theorem send_lineTx (s : State) : (send s).lineTx = s.lineTx ++ [s.txb] := rfl
@[simp] theorem send_params (s : State) : (send s).params = s.params := rfl
@[simp] theorem send_inbox (s : State) : (send s).inbox = s.inbox := rfl
@[simp] theorem send_hostData (s : State) : (send s).hostData = s.hostData := rfl
@[simp] theorem send_draws (s : State) : (send s).draws = s.draws := rfl

@[simp] theorem receive_phase (s : State) : (receive s).phase = s.phase := rfl
@[simp] theorem receive_code (s : State) : (receive s).code = s.code := rfl
@[simp] theorem receive_excCode (s : State) : (receive s).excCode = s.excCode := rfl
@[simp] theorem receive_confirmed (s : State) : (receive s).confirmed = s.confirmed := rfl
@[simp] theorem receive_overrun (s : State) : (receive s).overrun = s.overrun := rfl
@[simp] theorem receive_resValid (s : State) : (receive s).resValid = s.resValid := rfl
@[simp] theorem receive_rxovf (s : State) : (receive s).rxovf = (s.rxovf || decide (s.params.rxCapacity - s.rxb.length < s.lineRxq.length)) := rfl
@[simp] theorem receive_attempts (s : State) : (receive s).attempts = s.attempts + 1#16 := rfl
@[simp] theorem receive_crc (s : State) : (receive s).crc = s.crc := rfl
@[simp] theorem receive_req (s : State) : (receive s).req = s.req := rfl
@[simp] theorem receive_act (s : State) : (receive s).act = s.act := rfl
@[simp] theorem receive_val (s : State) : (receive s).val = s.val := rfl
@[simp] theorem receive_res (s : State) : (receive s).res = s.res := rfl
@[simp] theorem receive_txb (s : State) : (receive s).txb = s.txb := rfl
@[simp] theorem receive_rxb (s : State) : (receive s).rxb = s.rxb ++ s.lineRxq.take (s.params.rxCapacity - s.rxb.length) := rfl
@[simp] theorem receive_lineRxq (s : State) : (receive s).lineRxq = [] := rfl
@[simp] theorem receive_lineTx (s : State) : (receive s).lineTx = s.lineTx := rfl
@[simp] theorem receive_params (s : State) : (receive s).params = s.params := rfl
@[simp] theorem receive_inbox (s : State) : (receive s).inbox = s.inbox := rfl
@[simp] theorem receive_hostData (s : State) : (receive s).hostData = s.hostData := rfl
@[simp] theorem receive_draws (s : State) : (receive s).draws = s.draws := rfl

@[simp] theorem resetCore_phase (s : State) : (resetCore s).phase = .idle := rfl
@[simp] theorem resetCore_code (s : State) : (resetCore s).code = .ok := rfl
@[simp] theorem resetCore_excCode (s : State) : (resetCore s).excCode = 0#8 := rfl
@[simp] theorem resetCore_confirmed (s : State) : (resetCore s).confirmed = false := rfl
@[simp] theorem resetCore_overrun (s : State) : (resetCore s).overrun = false := rfl
@[simp] theorem resetCore_resValid (s : State) : (resetCore s).resValid = false := rfl
@[simp] theorem resetCore_rxovf (s : State) : (resetCore s).rxovf = false := rfl
@[simp] theorem resetCore_attempts (s : State) : (resetCore s).attempts = 0#16 := rfl
@[simp] theorem resetCore_crc (s : State) : (resetCore s).crc = 0xFFFF#16 := rfl
@[simp] theorem resetCore_req (s : State) : (resetCore s).req = zeroRequest := rfl
@[simp] theorem resetCore_act (s : State) : (resetCore s).act = zeroRequest := rfl
@[simp] theorem resetCore_val (s : State) : (resetCore s).val = [] := rfl
@[simp] theorem resetCore_res (s : State) : (resetCore s).res = [] := rfl
@[simp] theorem resetCore_txb (s : State) : (resetCore s).txb = [] := rfl
@[simp] theorem resetCore_rxb (s : State) : (resetCore s).rxb = [] := rfl
@[simp] theorem resetCore_lineRxq (s : State) : (resetCore s).lineRxq = [] := rfl
@[simp] theorem resetCore_lineTx (s : State) : (resetCore s).lineTx = [] := rfl
@[simp] theorem resetCore_params (s : State) : (resetCore s).params = s.params := rfl
@[simp] theorem resetCore_inbox (s : State) : (resetCore s).inbox = s.inbox := rfl
@[simp] theorem resetCore_hostData (s : State) : (resetCore s).hostData = s.hostData := rfl
@[simp] theorem resetCore_draws (s : State) : (resetCore s).draws = s.draws := rfl

end Sys2Proof.Machine
end

