-- ==== Sys2Proof/Laws/Memory.lean ====
section
/-! SUPPORT. The VAL memory: its canonical form, and what a read after a write gives. -/

namespace Sys2Proof.Machine

theorem Memory.mem_write (m : Memory) (i : Nat) (v : Half) (c : Nat × Half) :
    c ∈ m.write i v → c = (i, v) ∨ c ∈ m := by
  induction m with
  | nil => simp [Memory.write]
  | cons a m ih =>
    obtain ⟨j, w⟩ := a
    simp only [Memory.write]
    split
    · simp
    · split
      · intro h
        rcases List.mem_cons.1 h with h | h
        · exact .inl h
        · exact .inr (List.mem_cons_of_mem _ h)
      · intro h
        rcases List.mem_cons.1 h with h | h
        · exact .inr (h ▸ List.mem_cons_self)
        · exact (ih h).imp_right (List.mem_cons_of_mem _)

/-- A write to an entry of VAL keeps the canonical form. -/
theorem Memory.write_wf (m : Memory) (i : Nat) (v : Half) (hm : m.wf) (hi : i < Config.valDepth) :
    (m.write i v).wf := by
  refine ⟨?_, fun c hc => ?_⟩
  · replace hm := hm.1
    induction m with
    | nil => simp [Memory.write]
    | cons a m ih =>
      obtain ⟨j, w⟩ := a
      rw [List.pairwise_cons] at hm
      simp only [Memory.write]
      split
      next h =>
        refine List.pairwise_cons.2 ⟨fun c hc => ?_, List.pairwise_cons.2 hm⟩
        rcases List.mem_cons.1 hc with rfl | hc
        · exact h
        · exact Nat.lt_trans h (hm.1 c hc)
      next h =>
        split
        next h' => subst h'; exact List.pairwise_cons.2 hm
        next h' =>
          refine List.pairwise_cons.2 ⟨fun c hc => ?_, ih hm.2⟩
          rcases Memory.mem_write m i v c hc with rfl | hc
          · exact Nat.lt_of_le_of_ne (Nat.le_of_not_lt h) (Ne.symm h')
          · exact hm.1 c hc
  · rcases Memory.mem_write m i v c hc with rfl | hc
    · exact hi
    · exact hm.2 c hc

theorem Memory.read_of_lt (m : Memory) (i : Nat) (h : ∀ c ∈ m, i < c.1) : m.read i = none := by
  induction m with
  | nil => rfl
  | cons a m ih =>
    obtain ⟨j, w⟩ := a
    have hj := h (j, w) List.mem_cons_self
    simp only [Memory.read]
    rw [if_neg (Nat.ne_of_lt hj)]
    exact ih fun c hc => h c (List.mem_cons_of_mem _ hc)

/-- Reading the entry just written gives the value written. -/
theorem Memory.read_write_same (m : Memory) (i : Nat) (v : Half) : (m.write i v).read i = some v := by
  induction m with
  | nil => simp [Memory.write, Memory.read]
  | cons a m ih =>
    obtain ⟨j, w⟩ := a
    simp only [Memory.write]
    split
    · simp [Memory.read]
    · split
      · simp [Memory.read]
      next h => simpa [Memory.read, h] using ih

/-- A write leaves every other entry alone. -/
theorem Memory.read_write_other (m : Memory) (i k : Nat) (v : Half) (hk : k ≠ i) :
    (m.write i v).read k = m.read k := by
  induction m with
  | nil => simp [Memory.write, Memory.read, hk]
  | cons a m ih =>
    obtain ⟨j, w⟩ := a
    simp only [Memory.write]
    split
    · simp [Memory.read, hk]
    · split
      next h => subst h; simp [Memory.read, hk]
      · simp only [Memory.read, ih]

end Sys2Proof.Machine
end

