-- ==== Sys2Proof/Laws/Codec.lean ====
section
/-! SUPPORT. Lengths, byte order and the CRC of appended strings. -/

namespace Sys2Proof.Machine

@[simp] theorem be16_length (v : Half) : (be16 v).length = 2 := rfl

@[simp] theorem le16_length (v : Half) : (le16 v).length = 2 := rfl

/-- The two bytes of a half word, joined again. -/
theorem word16_extract (v : Half) : word16 (v.extractLsb' 8 8) (v.extractLsb' 0 8) = v := by
  apply BitVec.eq_of_toNat_eq
  show ((v.extractLsb' 8 8) ++ (v.extractLsb' 0 8)).toNat = v.toNat
  rw [BitVec.toNat_append, ← Nat.shiftLeft_add_eq_or_of_lt (BitVec.isLt _)]
  simp only [BitVec.extractLsb'_toNat, Nat.shiftLeft_eq, Nat.shiftRight_eq_div_pow]
  have := v.isLt
  omega

@[simp] theorem encodeRegisters_length (ws : List Half) : (encodeRegisters ws).length = 2 * ws.length := by
  induction ws with
  | nil => rfl
  | cons w ws ih => simp only [encodeRegisters, List.flatMap_cons, List.length_append, be16_length,
      List.length_cons] at *; omega

@[simp] theorem packCoils_length (vs : List Bool) : (packCoils vs).length = ceil8 vs.length := by
  simp [packCoils]

theorem crcFrom_append (c : Half) (xs ys : List Byte) : crcFrom c (xs ++ ys) = crcFrom (crcFrom c xs) ys := by
  induction xs generalizing c with
  | nil => rfl
  | cons x xs ih => exact ih _

@[simp] theorem withCrc_length (body : List Byte) : (withCrc body).length = body.length + 2 := by
  simp [withCrc]

@[simp] theorem crcBody_withCrc (body : List Byte) : crcBody (withCrc body) = body := by
  simp [crcBody, withCrc]

@[simp] theorem trailer_withCrc (body : List Byte) : trailer (withCrc body) = crc16 body := by
  rw [← word16_extract (crc16 body)]
  simp [trailer, withCrc, le16]

/-- A body followed by its CRC, low byte first, passes the CRC check (spec/40_crc.md R126). -/
@[simp] theorem crcMatches_withCrc (body : List Byte) : crcMatches (withCrc body) = true := by
  simp [crcMatches]

end Sys2Proof.Machine
end

