-- ==== Sys2Proof/Laws/Steps.lean ====
section
/-! SUPPORT. What each shared operation can do, said once. -/

namespace Sys2Proof.Machine

/-- START: refused with OVERRUN, accepted, or ended in INVALID_ARGUMENT. -/
theorem issue_cases (r : Request) (s : State) :
    (s.phase.busy = true ∧ issue r s = { s with overrun := true }) ∨
    (s.phase.busy = false ∧ argsOk r (valView s) = true ∧
      issue r s = { buildFrame r (valView s) (clearForStart r s) with phase := .sending }) ∨
    (s.phase.busy = false ∧ argsOk r (valView s) = false ∧
      issue r s = fail .invalidArgument { clearForStart r s with txb := [] }) := by
  unfold issue
  cases hb : s.phase.busy
  · cases ha : argsOk r (valView s)
    · exact .inr (.inr ⟨rfl, rfl, by simp⟩)
    · exact .inr (.inl ⟨rfl, rfl, by simp⟩)
  · exact .inl ⟨rfl, by simp⟩

/-- The end of a POLL: VALIDATING if the frame is complete or the budget is spent, else no change. -/
theorem closePoll_cases (b : Bool) (s : State) :
    ((b = true ∨ s.attempts.toNat = s.params.maxAttempts) ∧ closePoll b s = { s with phase := .validating }) ∨
    (b = false ∧ s.attempts.toNat ≠ s.params.maxAttempts ∧ closePoll b s = s) := by
  unfold closePoll
  by_cases hb : b = true
  · exact .inl ⟨.inl hb, by simp [hb]⟩
  · by_cases hm : s.attempts.toNat = s.params.maxAttempts
    · exact .inl ⟨.inr hm, by simp [hm]⟩
    · exact .inr ⟨by simpa using hb, hm, by simp [hb, hm]⟩

/-- POLL writes LINE_RXQ, RXB, RXOVF, ATTEMPTS and PHASE, and nothing else. -/
theorem poll_frame (s : State) : poll s = { receive s with phase := (poll s).phase } := by
  unfold poll
  rcases closePoll_cases (isComplete (receive s).rxb) (receive s) with ⟨_, h⟩ | ⟨_, _, h⟩ <;> rw [h]

/-- A read's decoder: DECODE_ERROR, or the results and COMPLETED. -/
theorem finishRead_cases (d : Option (List Half)) (s : State) :
    (d = none ∧ finishRead d s = fail .decodeError s) ∨
    (∃ ws, d = some ws ∧
      finishRead d s = completeWith .ok { s with res := writeResults ws s.res, resValid := true }) := by
  cases d with
  | none => exact .inl ⟨rfl, rfl⟩
  | some ws => exact .inr ⟨ws, rfl, rfl⟩

/-- A write's confirmation completes either way. -/
theorem finishWrite_cases (p : List Byte) (s : State) :
    (echoOk s.act p = true ∧ finishWrite p s = completeWith .ok { s with confirmed := true }) ∨
    (echoOk s.act p = false ∧ finishWrite p s = completeWith .writeNotConfirmed { s with confirmed := false }) := by
  unfold finishWrite
  cases h : echoOk s.act p
  · exact .inr ⟨rfl, by simp⟩
  · exact .inl ⟨rfl, by simp⟩

/-- What the free outcome of an ACT.FUNC without a branch can be (log entry 15): COMPLETED or FAILED, with a code of that phase,
and nothing else written but the count of draws. -/
theorem finishUnlisted_cases (p : List Byte) (s : State) :
    ∃ c ph, ((c = .ok ∨ c = .writeNotConfirmed) ∧ ph = .completed ∨ (c = .decodeError ∨ c = .invalidArgument) ∧ ph = .failed) ∧
      finishUnlisted p s = { s with code := c, phase := ph, draws := s.draws + 1 } := by
  unfold finishUnlisted
  dsimp only
  generalize Config.draw s.draws 3 = d
  cases d.getLsbD 0 <;> cases d.getLsbD 1
  · exact ⟨.invalidArgument, .failed, by simp, rfl⟩
  · exact ⟨.decodeError, .failed, by simp, rfl⟩
  · exact ⟨.writeNotConfirmed, .completed, by simp, rfl⟩
  · exact ⟨.ok, .completed, by simp, rfl⟩

/-- VALIDATE: the first check that fails decides (spec/45_validator.md R230), else the decoder runs. -/
theorem validate_cases (f : List Byte → State → State) (s : State) :
    (s.rxb.length = 0 ∧ validate f s = fail .noResponse s) ∨
    (s.rxb.length = 1 ∧ validate f s = fail .frameCorruption s) ∨
    (2 ≤ s.rxb.length ∧ crcMatches s.rxb = false ∧
      validate f s = fail .frameCorruption { s with crc := crc16 (crcBody s.rxb) }) ∨
    (2 ≤ s.rxb.length ∧ crcMatches s.rxb = true ∧ s.rxb.getD 0 0#8 ≠ s.act.slave ∧
      validate f s = fail .addressMismatch { s with crc := crc16 (crcBody s.rxb) }) ∨
    (2 ≤ s.rxb.length ∧ crcMatches s.rxb = true ∧ s.rxb.getD 0 0#8 = s.act.slave ∧
      s.rxb.getD 1 0#8 = s.act.func ||| 0x80#8 ∧
      validate f s =
        fail .slaveException { s with crc := crc16 (crcBody s.rxb), excCode := exceptionByte s }) ∨
    (2 ≤ s.rxb.length ∧ crcMatches s.rxb = true ∧ s.rxb.getD 0 0#8 = s.act.slave ∧
      s.rxb.getD 1 0#8 ≠ s.act.func ||| 0x80#8 ∧
      validate f s =
        f (payload (headerLength s.act.func) s.rxb) { s with crc := crc16 (crcBody s.rxb) }) := by
  by_cases h0 : s.rxb.length = 0
  · exact .inl ⟨h0, by simp [validate, h0]⟩
  by_cases h1 : s.rxb.length = 1
  · exact .inr (.inl ⟨h1, by simp [validate, h1]⟩)
  have h2 : 2 ≤ s.rxb.length := by omega
  refine .inr (.inr ?_)
  unfold validate
  rw [if_neg h0, if_neg h1]
  by_cases hc : crc16 (crcBody s.rxb) = trailer s.rxb
  · have hm : crcMatches s.rxb = true := by simpa [crcMatches] using hc
    refine .inr ?_
    by_cases ha : s.rxb.getD 0 0#8 = s.act.slave
    · refine .inr ?_
      by_cases he : s.rxb.getD 1 0#8 = s.act.func ||| 0x80#8
      · exact .inl ⟨h2, hm, ha, he, by simp only [ne_eq, hc, ha, he, not_true_eq_false, if_false, if_true]⟩
      · exact .inr ⟨h2, hm, ha, he, by simp only [ne_eq, hc, ha, he, not_true_eq_false, if_false]⟩
    · exact .inl ⟨h2, hm, ha, by simp only [ne_eq, hc, ha, not_true_eq_false, if_false, not_false_eq_true, if_true]⟩
  · exact .inl ⟨h2, by simpa [crcMatches] using hc,
      by simp only [ne_eq, hc, not_false_eq_true, if_true]⟩

/-- A Host read changes only what the Host has read and the count of draws (spec/10_state.md R50). -/
theorem hostRead_frame (off : Half) (width : Nat) (s : State) :
    hostRead off width s = { s with hostData := (hostRead off width s).hostData,
                                    draws := (hostRead off width s).draws } := by
  unfold hostRead
  cases readHost s off width <;> rfl

/-- A step of WAIT changes only what the Host has read, the count of draws and the events to come. -/
theorem hostWait_frame (s : State) :
    hostWait s = { s with hostData := (hostWait s).hostData, draws := (hostWait s).draws, inbox := (hostWait s).inbox } := by
  unfold hostWait
  dsimp only
  split <;> rw [hostRead_frame]

/-- A Host write to a register other than CTRL writes REQ and VAL, and nothing else. -/
theorem writeRegister_frame (v : Half) (s : State) (r : Register) :
    writeRegister v s r = { s with req := (writeRegister v s r).req, val := (writeRegister v s r).val } := by
  cases r <;> rfl

/-- The VAL entries the map reaches exist. -/
theorem windowAt_val (a i : Nat) (h : windowAt a = .val i) : i < Config.valDepth := by
  unfold windowAt at h
  split_ifs at h with h1
  injection h with h
  exact h ▸ h1.2

/-- What the map reaches: a single register of the list, or a window. -/
theorem registerAt_cases (off : Half) :
    (off, registerAt off) ∈ scalarMap ∨ registerAt off = windowAt off.toNat := by
  unfold registerAt
  cases h : scalarMap.lookup off with
  | none => exact .inr rfl
  | some r =>
    obtain ⟨l, l', he, -⟩ := List.lookup_eq_some_iff.1 h
    exact .inl (he ▸ by simp)

theorem registerAt_val (off : Half) (i : Nat) (h : registerAt off = .val i) : i < Config.valDepth := by
  rcases registerAt_cases off with hm | hw
  · rw [h] at hm; simp [scalarMap] at hm
  · exact windowAt_val _ _ (hw ▸ h)

theorem windowAt_ne_ctrl (a : Nat) : windowAt a ≠ .ctrl := by
  unfold windowAt
  split_ifs <;> simp

/-- Offset 0 and no other reaches CTRL. -/
theorem registerAt_eq_ctrl (off : Half) : registerAt off = .ctrl ↔ off = 0x0000#16 := by
  refine ⟨fun h => ?_, fun h => h ▸ rfl⟩
  rcases registerAt_cases off with hm | hw
  · rw [h] at hm; simpa [scalarMap] using hm
  · exact absurd (hw ▸ h) (windowAt_ne_ctrl _)

/-- The registers whose writes change REQ (spec/10_state.md R35-R39). -/
abbrev requestRegisters : List Register := [.reqSlave, .reqFunc, .reqAddr, .reqQtyval, .reqFlags]

/-- Only a write to a request register changes REQ, and only one to an entry of VAL changes VAL. -/
theorem writeRegister_keeps (v : Half) (s : State) (r : Register) :
    (r ∉ requestRegisters → (writeRegister v s r).req = s.req) ∧
    ((∀ i, r ≠ .val i) → (writeRegister v s r).val = s.val) := by
  cases r <;> simp [writeRegister]

/-- The request registers lie at 0x0010 to 0x0018 (spec/10_state.md R25). -/
theorem registerAt_request_range (off : Half) (h : registerAt off ∈ requestRegisters) :
    0x0010 ≤ off.toNat ∧ off.toNat ≤ 0x0018 := by
  rcases registerAt_cases off with hm | hw
  · have inside : ∀ p ∈ scalarMap, p.2 ∈ requestRegisters → 0x0010 ≤ p.1.toNat ∧ p.1.toNat ≤ 0x0018 := by decide
    exact inside _ hm h
  · rw [hw] at h
    unfold windowAt at h
    split_ifs at h <;> simp [requestRegisters] at h

/-- The entries of VAL lie at the even offsets 0x1000 to 0x1FEE (spec/10_state.md R25). -/
theorem registerAt_val_range (off : Half) (i : Nat) (he : off.toNat % 2 = 0) (h : registerAt off = .val i) :
    0x1000 ≤ off.toNat ∧ off.toNat ≤ 0x1FEE := by
  rcases registerAt_cases off with hm | hw
  · rw [h] at hm
    simp [scalarMap] at hm
  · rw [hw] at h
    unfold windowAt at h
    split_ifs at h with hv
    simp at hv
    omega

/-- A Host write to a register other than CTRL keeps VAL canonical. -/
theorem writeRegister_val_wf (v : Half) (s : State) (off : Half) (h : s.val.wf) :
    (writeRegister v s (registerAt off)).val.wf := by
  cases hr : registerAt off with
  | val i => exact Memory.write_wf _ _ _ h (registerAt_val off i hr)
  | _ => exact h

/-- The commands a request can select. -/
theorem decodeRequest_cases (r : Request) (i : Instr) (h : decodeRequest r = .ok i) :
    (r.func = 0x01#8 ∧ i = .rdCoils r.operands) ∨ (r.func = 0x02#8 ∧ i = .rdDiscrete r.operands) ∨
    (r.func = 0x03#8 ∧ i = .rdHolding r.operands) ∨ (r.func = 0x04#8 ∧ i = .rdInput r.operands) ∨
    (r.func = 0x05#8 ∧ i = .wrCoil r.operands) ∨ (r.func = 0x06#8 ∧ i = .wrReg r.operands) ∨
    (r.func = 0x0F#8 ∧ i = .wrCoils r.operands) ∨ (r.func = 0x10#8 ∧ i = .wrRegs r.operands) := by
  unfold decodeRequest at h
  repeat' split at h
  all_goals first
    | (injection h with h; subst h; simp_all)
    | cases h

/-- A command's operands and its FUNC make up the request they came from. -/
@[simp] theorem request_operands (r : Request) : r.operands.request r.func = r := rfl

@[simp] theorem operands_request (o : Operands) (f : Byte) : (o.request f).operands = o := rfl

/-- One step, with an event pending. -/
theorem step_event (s : State) (e : Event) (rest : List Event) (h : s.inbox = e :: rest) :
    step s = takeEvent e { s with inbox := rest } := by
  simp [step, takeTurn, h]

/-- One step, with no event pending. -/
theorem step_silent (s : State) (h : s.inbox = []) : step s = coreTurn s := by
  simp [step, takeTurn, h]

@[simp] theorem run_zero (s : State) : run 0 s = .next s := rfl

theorem run_succ (k : Nat) (s t : State) (h : step s = .next t) : run (k + 1) s = run k t := by
  have h' : Sys2Proof.core.step s = .next t := h
  simp only [run, Host.Core.run, h']
  rfl

theorem run_succ_stops (k : Nat) (s u : State) (h : ∀ t, step s ≠ .next t) : run (k + 1) s ≠ .next u := by
  have h' : ∀ t, Sys2Proof.core.step s ≠ .next t := h
  simp only [run, Host.Core.run]
  cases hs : Sys2Proof.core.step s with
  | next t => exact absurd hs (h' t)
  | fault r => exact fun h => by cases h
  | refused r => exact fun h => by cases h

/-- Two runs in a row are one run. -/
theorem run_add (j k : Nat) (s t : State) (h : run j s = .next t) : run (j + k) s = run k t := by
  induction j generalizing s with
  | zero => cases h; rw [Nat.zero_add]
  | succ j ih =>
    by_cases hs : ∃ u, step s = .next u
    · obtain ⟨u, hu⟩ := hs
      rw [run_succ j s u hu] at h
      rw [Nat.succ_add, run_succ (j + k) s u hu]
      exact ih u h
    · exact absurd h (run_succ_stops j s t fun u hu => hs ⟨u, hu⟩)

end Sys2Proof.Machine
end

