-- ==== Sys2Proof/Laws/Events.lean ====
section
/-! SUPPORT. What one event, one CTRL write and one Core turn can do, said once: the inversion lemmas of the step. -/

namespace Sys2Proof.Machine

/-- Every instruction answers a next state. -/
theorem exec_next (i : Instr) (s : State) : ∃ t, exec i s = .next t := by
  cases i with
  | abort => unfold exec execAbort; cases s.phase <;> exact ⟨_, rfl⟩
  | _ => exact ⟨_, rfl⟩

/-- And so does the Core's turn, in every state. -/
theorem coreTurn_next (s : State) : ∃ t, coreTurn s = .next t := by
  unfold coreTurn
  cases s.phase
  case validating =>
    cases decodeRequest s.act with
    | ok i => exact exec_next i s
    | error e => exact ⟨_, rfl⟩
  all_goals exact ⟨_, rfl⟩

/-- So do the actions of a CTRL write. -/
theorem runActions_next (l : List Instr) (s : State) : ∃ t, runActions l s = .next t := by
  induction l generalizing s with
  | nil => exact ⟨_, rfl⟩
  | cons i l ih =>
    obtain ⟨t, h⟩ := exec_next i s
    simp only [runActions, h]; exact ih t

/-- A request that selects no command has a FUNC outside the eight codes. -/
theorem decodeRequest_error (r : Request) (e : Reject) (h : decodeRequest r = .error e) :
    r.func ∉ ([0x01#8, 0x02#8, 0x03#8, 0x04#8, 0x05#8, 0x06#8, 0x0F#8, 0x10#8] : List Byte) := by
  unfold decodeRequest at h
  repeat' split at h
  all_goals try cases h
  simp_all

/-- A request that selects a command has one of the eight codes in FUNC. -/
theorem decodeRequest_ok (r : Request) (i : Instr) (h : decodeRequest r = .ok i) :
    r.func ∈ ([0x01#8, 0x02#8, 0x03#8, 0x04#8, 0x05#8, 0x06#8, 0x0F#8, 0x10#8] : List Byte) := by
  rcases decodeRequest_cases r i h with h|h|h|h|h|h|h|h <;> simp [h.1]

/-- The classes a response can have. -/
theorem decodeResponse_cases (bs : List Byte) (i : Instr) (rest : List Byte) (h : decodeResponse bs = .ok (i, rest)) :
    (∃ sl fc, bs = sl :: fc :: rest ∧ fc.getLsbD 7 = true ∧ i = .rspExc sl (functionNumber fc)) ∨
    (∃ sl bc, bs = sl :: 0x01#8 :: bc :: rest ∧ i = .rspRead01 sl bc) ∨
    (∃ sl bc, bs = sl :: 0x02#8 :: bc :: rest ∧ i = .rspRead02 sl bc) ∨
    (∃ sl bc, bs = sl :: 0x03#8 :: bc :: rest ∧ i = .rspRead03 sl bc) ∨
    (∃ sl bc, bs = sl :: 0x04#8 :: bc :: rest ∧ i = .rspRead04 sl bc) ∨
    (∃ sl fc, bs = sl :: fc :: rest ∧ fc.getLsbD 7 = false ∧ ¬ (1 ≤ fc.toNat ∧ fc.toNat ≤ 4) ∧
      i = .rspEcho sl (functionNumber fc)) := by
  have hne : ∀ fc : Byte, ¬ (fc = 0x01#8 ∨ fc = 0x02#8 ∨ fc = 0x03#8 ∨ fc = 0x04#8) → ¬ (1 ≤ fc.toNat ∧ fc.toNat ≤ 4) := by
    decide
  match bs, h with
  | [], h => cases h
  | [_], h => cases h
  | sl :: fc :: r, h =>
    simp only [decodeResponse] at h
    by_cases h7 : fc.getLsbD 7 = true
    · rw [if_pos h7] at h
      cases h
      exact .inl ⟨sl, fc, rfl, h7, rfl⟩
    · rw [if_neg h7] at h
      by_cases hr : fc = 0x01#8 ∨ fc = 0x02#8 ∨ fc = 0x03#8 ∨ fc = 0x04#8
      · rw [if_pos hr] at h
        match r, h with
        | [], h => cases h
        | bc :: r', h =>
          rcases hr with hr | hr | hr | hr <;> subst hr <;> cases h
          · exact .inr (.inl ⟨sl, bc, rfl, rfl⟩)
          · exact .inr (.inr (.inl ⟨sl, bc, rfl, rfl⟩))
          · exact .inr (.inr (.inr (.inl ⟨sl, bc, rfl, rfl⟩)))
          · exact .inr (.inr (.inr (.inr (.inl ⟨sl, bc, rfl, rfl⟩))))
      · rw [if_neg hr] at h
        cases h
        exact .inr (.inr (.inr (.inr (.inr ⟨sl, fc, rfl, Bool.eq_false_iff.2 h7, hne fc hr, rfl⟩))))

/-- A function byte is its two fields, joined again. -/
theorem functionByte_functionNumber : ∀ fc : Byte, functionByte (fc.getLsbD 7) (functionNumber fc) = fc := by decide

/-- The meaning of each of the eight commands, with its decoder. -/
theorem command_exec (i : Instr) (f : Byte) (h : i.isCommand f = true) :
    ∃ o : Operands, ∃ fin : List Byte → State → State, (∀ s, exec i s = .next (commandStep (o.request f) fin s)) ∧
      ((f = 0x01#8 ∨ f = 0x02#8) ∧ fin = finishCoils ∨ (f = 0x03#8 ∨ f = 0x04#8) ∧ fin = finishRegisters ∨
        (f = 0x05#8 ∨ f = 0x06#8 ∨ f = 0x0F#8 ∨ f = 0x10#8) ∧ fin = finishWrite) := by
  cases i <;> simp only [Instr.isCommand, beq_iff_eq, Bool.false_eq_true] at h <;> subst h <;> exact ⟨_, _, fun s => rfl, by simp⟩

/-- A command's step from a phase that is not busy is its START. -/
theorem commandStep_rest (r fin) (s : State) (hb : s.phase.busy = false) : commandStep r fin s = issue r s := by
  cases hp : s.phase <;> simp [hp, Phase.busy] at hb <;> simp [commandStep, hp]

/-- One CTRL write, action by action (spec/46_master_api.md R264). -/
theorem ctrlWrite_cases (v : Half) (s t : State) (h : runActions (ctrlActions v) s = .next t) :
    ∃ a b, a = (if v.getLsbD 2 then { s with overrun := false } else s) ∧
      b = (if v.getLsbD 1 = true ∧ s.phase = .awaiting then fail .aborted { a with rxb := [], lineRxq := [] } else a) ∧
      t = (if v.getLsbD 0 then issue b.req b else b) := by
  refine ⟨_, _, rfl, rfl, ?_⟩
  unfold ctrlActions at h
  have hab : ∀ u : State, exec .abort u = .next (if u.phase = .awaiting then fail .aborted { u with rxb := [], lineRxq := [] } else u) := by
    intro u
    cases hp : u.phase <;> simp [exec, execAbort, hp]
  cases h2 : v.getLsbD 2 <;> cases h1 : v.getLsbD 1 <;> cases h0 : v.getLsbD 0 <;>
    rw [h2, h1, h0] at h <;>
    simp only [Bool.false_eq_true, if_false, if_true, List.nil_append, List.cons_append, runActions, hab] at h <;> cases h <;>
    simp

/-- What one event does. -/
theorem takeEvent_cases (e : Event) (s t : State) (h : takeEvent e s = .next t) :
    (∃ v, e.isCtrlWrite = true ∧ (∀ k, e.setsCtrlBit k = v.getLsbD k) ∧ runActions (ctrlActions v) s = .next t) ∨
    (∃ off width v, e = .hostWrite off width v ∧ e.isCtrlWrite = false ∧ ∃ q m, t = { s with req := q, val := m }) ∨
    (∃ off width d k, e = .hostRead off width ∧ t = { s with hostData := d, draws := k }) ∨
    (∃ d, e = .deliver d ∧ t = deliver d s) ∨
    (e = .core ∧ coreTurn s = .next t) ∨
    (e = .reset ∧ t = resetCore s) ∨
    (e = .hostWait ∧ ∃ d k l, t = { s with hostData := d, draws := k, inbox := l }) := by
  cases e with
  | hostWrite off w v =>
    simp only [takeEvent, hostWrite] at h
    by_cases ha : isAligned off w = true
    · rw [if_pos ha] at h
      by_cases hc : registerAt off = .ctrl
      · rw [if_pos hc] at h
        exact .inl ⟨v, by simp [Event.isCtrlWrite, ha, hc], fun k => by simp [Event.setsCtrlBit, ha, hc], h⟩
      · rw [if_neg hc] at h
        refine .inr (.inl ⟨off, w, v, rfl, by simp [Event.isCtrlWrite, hc], ?_⟩)
        cases h
        exact ⟨_, _, writeRegister_frame v s _⟩
    · rw [if_neg ha] at h
      cases h
      exact .inr (.inl ⟨off, w, v, rfl, by simp [Event.isCtrlWrite, ha], s.req, s.val, rfl⟩)
  | hostRead off w => cases h; exact .inr (.inr (.inl ⟨off, w, _, _, rfl, hostRead_frame off w s⟩))
  | deliver d => cases h; exact .inr (.inr (.inr (.inl ⟨d, rfl, rfl⟩)))
  | core => exact .inr (.inr (.inr (.inr (.inl ⟨rfl, h⟩))))
  | reset => cases h; exact .inr (.inr (.inr (.inr (.inr (.inl ⟨rfl, rfl⟩)))))
  | hostWait => cases h; exact .inr (.inr (.inr (.inr (.inr (.inr ⟨rfl, _, _, _, hostWait_frame s⟩)))))

/-- The Core's turn in SENDING. -/
theorem coreTurn_sending (s : State) (h : s.phase = .sending) : coreTurn s = .next (send s) := by rw [coreTurn, h]

/-- The Core's turn in AWAITING. -/
theorem coreTurn_awaiting (s : State) (h : s.phase = .awaiting) : coreTurn s = .next (poll s) := by rw [coreTurn, h]

/-- The Core has no enabled step in a phase that is not busy. -/
theorem coreTurn_rest (s : State) (h : s.phase.busy = false) : coreTurn s = .next s := by
  cases hp : s.phase <;> simp [hp, Phase.busy] at h <;> rw [coreTurn, hp]

/-- What the Core's turn does. -/
theorem coreTurn_cases (s t : State) (h : coreTurn s = .next t) :
    (s.phase.busy = false ∧ t = s) ∨ (s.phase = .sending ∧ t = send s) ∨ (s.phase = .awaiting ∧ t = poll s) ∨
    (s.phase = .validating ∧ coreTurn s = .next t) := by
  cases hp : s.phase with
  | validating => exact .inr (.inr (.inr ⟨rfl, h⟩))
  | sending => rw [coreTurn, hp] at h; cases h; exact .inr (.inl ⟨rfl, rfl⟩)
  | awaiting => rw [coreTurn, hp] at h; cases h; exact .inr (.inr (.inl ⟨rfl, rfl⟩))
  | _ => rw [coreTurn, hp] at h; cases h; exact .inl ⟨rfl, rfl⟩

/-- Each of the eight codes is a read or a write, and no other code is either. -/
theorem listed_iff (f : Byte) :
    f ∈ ([0x01#8, 0x02#8, 0x03#8, 0x04#8, 0x05#8, 0x06#8, 0x0F#8, 0x10#8] : List Byte) ↔ isRead f = true ∨ isWrite f = true := by
  revert f
  decide

/-- The Core's turn in VALIDATING is the VALIDATE of the command in ACT, with its decoder; with no command in ACT it has none. -/
theorem coreTurn_validate (s t : State) (hph : s.phase = .validating) (h : coreTurn s = .next t) :
    (∃ fin : List Byte → State → State, isRead s.act.func = true ∧ isWrite s.act.func = false ∧ t = validate fin s ∧
      ∀ p u, u.act.qty = s.act.qty → ∃ d, fin p u = finishRead d u ∧ ∀ ws, d = some ws → ws.length = s.act.qty.toNat) ∨
    (isRead s.act.func = false ∧ isWrite s.act.func = true ∧ t = validate finishWrite s) ∨
    (isRead s.act.func = false ∧ isWrite s.act.func = false ∧ t = validate finishUnlisted s) := by
  have co : ∀ p u, u.act.qty = s.act.qty → ∃ d, finishCoils p u = finishRead d u ∧ ∀ ws, d = some ws → ws.length = s.act.qty.toNat := by
    intro p u hu
    refine ⟨_, rfl, fun ws h => ?_⟩
    unfold unpackCoils at h; split at h
    · cases h
    · cases h; simp [hu]
  have re : ∀ p u, u.act.qty = s.act.qty → ∃ d, finishRegisters p u = finishRead d u ∧ ∀ ws, d = some ws → ws.length = s.act.qty.toNat := by
    intro p u hu
    refine ⟨_, rfl, fun ws h => ?_⟩
    unfold decodeRegisters at h; split at h
    · cases h
    · cases h; simp [hu]
  cases hd : decodeRequest s.act with
  | error e =>
    have hn := mt (listed_iff s.act.func).2 (decodeRequest_error _ _ hd)
    simp only [not_or, Bool.not_eq_true] at hn
    simp only [coreTurn, hph, hd] at h
    cases h
    exact .inr (.inr ⟨hn.1, hn.2, rfl⟩)
  | ok i =>
    have h : exec i s = .next t := by simpa [coreTurn, hph, hd] using h
    rcases decodeRequest_cases _ _ hd with hc | hc | hc | hc | hc | hc | hc | hc <;> obtain ⟨h1, rfl⟩ := hc <;>
      simp only [exec, execRdCoils, execRdDiscrete, execRdHolding, execRdInput, execWrCoil, execWrReg, execWrCoils, execWrRegs, commandStep, hph] at h <;>
      cases h <;> rw [h1]
    · exact .inl ⟨_, rfl, rfl, rfl, co⟩
    · exact .inl ⟨_, rfl, rfl, rfl, co⟩
    · exact .inl ⟨_, rfl, rfl, rfl, re⟩
    · exact .inl ⟨_, rfl, rfl, rfl, re⟩
    all_goals exact .inr (.inl ⟨rfl, rfl, rfl⟩)

/-- What a VALIDATE can leave. -/
theorem validate_outcomes (s t : State) (hph : s.phase = .validating) (h : coreTurn s = .next t) :
    (∃ c, t = fail c s ∧ s.rxb.length < 2) ∨
    (2 ≤ s.rxb.length ∧ (
      (∃ c, c ≠ .slaveException ∧ t = fail c { s with crc := crc16 (crcBody s.rxb) }) ∨
      (crcMatches s.rxb = true ∧ s.rxb.getD 0 0#8 = s.act.slave ∧
        t = fail .slaveException { s with crc := crc16 (crcBody s.rxb), excCode := exceptionByte s }) ∨
      (isRead s.act.func = true ∧ ∃ ws, t = completeWith .ok { s with
        crc := crc16 (crcBody s.rxb), res := writeResults ws s.res, resValid := true }) ∨
      (isWrite s.act.func = true ∧ (t = completeWith .ok { s with crc := crc16 (crcBody s.rxb), confirmed := true } ∨
        t = completeWith .writeNotConfirmed { s with crc := crc16 (crcBody s.rxb), confirmed := false })) ∨
      (isRead s.act.func = false ∧ isWrite s.act.func = false ∧ ∃ c ph,
        ((c = .ok ∨ c = .writeNotConfirmed) ∧ ph = .completed ∨ (c = .decodeError ∨ c = .invalidArgument) ∧ ph = .failed) ∧
        t = { s with crc := crc16 (crcBody s.rxb), code := c, phase := ph, draws := s.draws + 1 }))) := by
  have hv : ∀ fin : List Byte → State → State, t = validate fin s →
      (∃ c, t = fail c s ∧ s.rxb.length < 2) ∨ (2 ≤ s.rxb.length ∧ (
        (∃ c, c ≠ .slaveException ∧ t = fail c { s with crc := crc16 (crcBody s.rxb) }) ∨
        (crcMatches s.rxb = true ∧ s.rxb.getD 0 0#8 = s.act.slave ∧
        t = fail .slaveException { s with crc := crc16 (crcBody s.rxb), excCode := exceptionByte s }) ∨
        ∃ p, t = fin p { s with crc := crc16 (crcBody s.rxb) })) := by
    intro fin ht
    rcases validate_cases fin s with ⟨h1, h⟩ | ⟨h1, h⟩ | ⟨h1, h2, h⟩ | ⟨h1, h2, h3, h⟩ | ⟨h1, h2, h3, h4, h⟩ | ⟨h1, h2, h3, h4, h⟩
    · exact .inl ⟨_, ht.trans h, by omega⟩
    · exact .inl ⟨_, ht.trans h, by omega⟩
    · exact .inr ⟨h1, .inl ⟨.frameCorruption, nofun, ht.trans h⟩⟩
    · exact .inr ⟨h1, .inl ⟨.addressMismatch, nofun, ht.trans h⟩⟩
    · exact .inr ⟨h1, .inr (.inl ⟨h2, h3, ht.trans h⟩)⟩
    · exact .inr ⟨h1, .inr (.inr ⟨_, ht.trans h⟩)⟩
  rcases coreTurn_validate s t hph h with ⟨fin, hrd, hwr, htv, hfin⟩ | ⟨hrd, hwr, htv⟩ | ⟨hrd, hwr, htv⟩
  · rcases hv fin htv with h | ⟨h2, h | h | ⟨p, h⟩⟩
    · exact .inl h
    · exact .inr ⟨h2, .inl h⟩
    · exact .inr ⟨h2, .inr (.inl h)⟩
    · obtain ⟨d, hd, -⟩ := hfin p { s with crc := crc16 (crcBody s.rxb) } rfl
      rw [hd] at h
      rcases finishRead_cases d { s with crc := crc16 (crcBody s.rxb) } with ⟨-, h'⟩ | ⟨ws, -, h'⟩
      · exact .inr ⟨h2, .inl ⟨.decodeError, nofun, h.trans h'⟩⟩
      · exact .inr ⟨h2, .inr (.inr (.inl ⟨hrd, ws, h.trans h'⟩))⟩
  · rcases hv _ htv with h | ⟨h2, h | h | ⟨p, h⟩⟩
    · exact .inl h
    · exact .inr ⟨h2, .inl h⟩
    · exact .inr ⟨h2, .inr (.inl h)⟩
    · rcases finishWrite_cases p { s with crc := crc16 (crcBody s.rxb) } with ⟨-, h'⟩ | ⟨-, h'⟩
      · exact .inr ⟨h2, .inr (.inr (.inr (.inl ⟨hwr, .inl (h.trans h')⟩)))⟩
      · exact .inr ⟨h2, .inr (.inr (.inr (.inl ⟨hwr, .inr (h.trans h')⟩)))⟩
  · rcases hv _ htv with h | ⟨h2, h | h | ⟨p, h⟩⟩
    · exact .inl h
    · exact .inr ⟨h2, .inl h⟩
    · exact .inr ⟨h2, .inr (.inl h)⟩
    · obtain ⟨c, ph, hc, h'⟩ := finishUnlisted_cases p { s with crc := crc16 (crcBody s.rxb) }
      exact .inr ⟨h2, .inr (.inr (.inr (.inr ⟨hrd, hwr, c, ph, hc, h.trans h'⟩)))⟩

/-- What every VALIDATE keeps. -/
theorem validate_keeps (s t : State) (hph : s.phase = .validating) (h : coreTurn s = .next t) :
    t.overrun = s.overrun ∧ t.rxovf = s.rxovf ∧ t.attempts = s.attempts ∧ t.req = s.req ∧ t.act = s.act ∧ t.val = s.val ∧ t.txb = s.txb ∧
    t.rxb = s.rxb ∧ t.lineRxq = s.lineRxq ∧ t.lineTx = s.lineTx ∧ t.params = s.params ∧ t.inbox = s.inbox := by
  rcases validate_outcomes s t hph h with ⟨c, h, -⟩ | ⟨-, ⟨c, -, h⟩ | ⟨-, -, h⟩ | ⟨-, ws, h⟩ | ⟨-, h | h⟩ | ⟨-, -, c, ph, -, h⟩⟩ <;>
  rw [h] <;>
  exact ⟨rfl, rfl, rfl, rfl, rfl, rfl, rfl, rfl, rfl, rfl, rfl, rfl⟩

/-- No event but a WAIT changes the events still to come. -/
theorem takeEvent_inbox (e : Event) (s t : State) (hw : e ≠ .hostWait) (h : takeEvent e s = .next t) : t.inbox = s.inbox := by
  rcases takeEvent_cases e s t h with ⟨v, -, hk, h⟩ | ⟨_, _, _, -, -, q, m, h⟩ | ⟨_, _, d, k, -, h⟩ | ⟨d, -, h⟩ | ⟨he, h⟩ | ⟨he, h⟩ | ⟨he, -⟩
  · obtain ⟨a, b, ha, hb, ht⟩ := ctrlWrite_cases v s t h
    have hi : ∀ r s, (issue r s).inbox = s.inbox := by
      intro r s
      rcases issue_cases r s with ⟨_, h⟩ | ⟨_, _, h⟩ | ⟨_, _, h⟩ <;> rw [h] <;> rfl
    rw [ht, hb, ha]; split_ifs <;> simp [hi]
  · rw [h]
  · rw [h]
  · rw [h]; rfl
  · rcases coreTurn_cases s t h with ⟨_, h⟩ | ⟨hp, h⟩ | ⟨_, h⟩ | ⟨hp, h⟩
    · rw [h]
    · rw [h]; rfl
    · rw [h, poll_frame]; rfl
    · exact (validate_keeps s t hp h).2.2.2.2.2.2.2.2.2.2.2
  · rw [h]; rfl
  · exact absurd he hw

/-- DONE is bit 3 of STATUS (spec/10_state.md R27). -/
theorem statusWord_done (s : State) : (statusWord s).getLsbD 3 = s.phase.done := by
  simp only [statusWord, BitVec.getLsbD_append]
  cases s.phase <;> rfl

/-- The staging writes of a value list, one for each entry of VAL from `k` on (spec/30_encoding.md R99). -/
theorem stageFrom_eq (vals : List Half) (k : Nat) :
    stageFrom k vals = (vals.zipIdx k).map fun p => .hostWrite (BitVec.ofNat 16 (0x1000 + 2 * p.2)) 2 p.1 := by
  induction vals generalizing k with
  | nil => rfl
  | cons v vs ih => simp [stageFrom, ih, wr]

/-- One step of WAIT: the Host reads STATUS, and the WAIT stays pending unless DONE is 1 (spec/30_encoding.md R99). -/
theorem hostWait_eq (s : State) :
    hostWait s = { s with hostData := some (statusWord s), inbox := if s.phase.done then s.inbox else waitAgain s.inbox } := by
  have hr : hostRead 0x0002#16 2 s = { s with hostData := some (statusWord s) } := rfl
  unfold hostWait
  simp only [hr, readDone, statusWord_done]
  cases s.phase.done <;> rfl

/-- After a read of WAIT that did not find DONE = 1 the WAIT is second in the inbox, behind a step that is not the Host's. -/
theorem waitAgain_cases (l : List Event) :
    (∃ e rest, l = e :: rest ∧ e.isHost = false ∧ waitAgain l = e :: .hostWait :: rest) ∨
    ((∀ e ∈ l.head?, e.isHost = true) ∧ waitAgain l = .core :: .hostWait :: l) := by
  cases l with
  | nil => exact .inr ⟨by simp, rfl⟩
  | cons e l =>
    cases he : e.isHost
    · exact .inl ⟨e, l, rfl, he, by simp [waitAgain, he]⟩
    · exact .inr ⟨by simp [he], by simp [waitAgain, he]⟩

/-- A run whose next event is `e`. -/
theorem run_event (k : Nat) (e : Event) (s t : State) (es : List Event) (h : takeEvent e { s with inbox := es } = .next t) :
    run (k + 1) { s with inbox := e :: es } = run k t := run_succ k _ t ((step_event _ e es rfl).trans h)

/-- A run that starts with deliveries by the Line. -/
theorem run_delivers (ds : List (List Byte)) (k : Nat) (s : State) (es : List Event) :
    run (ds.length + k) { s with inbox := ds.map .deliver ++ es } = run k { s with lineRxq := s.lineRxq ++ ds.flatten, inbox := es } := by
  induction ds generalizing s with
  | nil => simp
  | cons d ds ih =>
    rw [show (d :: ds).length + k = (ds.length + k) + 1 by simp; omega, List.map_cons, List.cons_append,
      run_event _ _ s _ _ rfl]
    have := ih { s with lineRxq := s.lineRxq ++ d }
    simp only [List.flatten_cons, ← List.append_assoc]
    exact this

/-- At and above 0x1000 the map has only windows. -/
theorem registerAt_window (off : Half) (h : 0x1000 ≤ off.toNat) : registerAt off = windowAt off.toNat := by
  rcases registerAt_cases off with hm | h'
  · exfalso
    have : ∀ p ∈ scalarMap, p.1.toNat < 0x1000 := by decide
    have := this _ hm; simp at this; omega
  · exact h'

/-- The accesses the core honours (spec/20_memory.md R61). -/
theorem aligned_iff (off : Half) (w : Nat) : isAligned off w = true ↔ w = 2 ∧ off.toNat % 2 = 0 := by
  unfold isAligned; simp

/-- A Host read of a register that has a value. -/
theorem hostRead_value (s : State) (off : Half) (r : Register) (v : Half) (ha : isAligned off 2 = true) (hr : registerAt off = r) (h : readRegister s r = some v) :
    takeEvent (.hostRead off 2) s = .next { s with hostData := some v } := by
  show Host.Outcome.next (hostRead off 2 s) = _
  unfold hostRead readHost
  rw [if_pos ha, hr, h]

/-- The invariant does not read OVERRUN, RXOVF, REQ, LINE_RXQ and the model's own fields but the parameters, and of VAL only its form. -/
theorem inv_congr (s t : State) (hs : Inv s) (h1 : t.phase = s.phase) (h2 : t.code = s.code) (h3 : t.excCode = s.excCode)
    (h4 : t.confirmed = s.confirmed) (h5 : t.resValid = s.resValid) (h6 : t.attempts = s.attempts) (h7 : t.crc = s.crc)
    (h8 : t.act = s.act) (h9 : t.res = s.res) (h10 : t.txb = s.txb) (h11 : t.rxb = s.rxb) (h12 : t.lineTx = s.lineTx)
    (h13 : t.params = s.params) (h14 : t.val.wf) : Inv t := by
  obtain ⟨a, ⟨b1, b2⟩, c⟩ := hs
  cases s; cases t
  simp only at h1 h2 h3 h4 h5 h6 h7 h8 h9 h10 h11 h12 h13
  subst h1 h2 h3 h4 h5 h6 h7 h8 h9 h10 h11 h12 h13
  exact ⟨a, ⟨h14, b2⟩, c⟩

end Sys2Proof.Machine
end

