-- ==== Sys2Proof/Laws/Frames.lean ====
section
/-! SUPPORT. The parts of a built frame, the bounds behind it, and the bytes of the Codec. -/

namespace Sys2Proof.Machine

/-- Every PDU begins with FUNC and the address. -/
theorem pdu_head (r : Request) (val : Nat → Half) : ∃ tl, pdu r val = r.func :: (be16 r.addr ++ tl) := by
  unfold pdu
  split
  · exact ⟨be16 r.qty, by simp [pduRead]⟩
  · split
    · exact ⟨_, by simp only [pduCoils, List.append_assoc, List.cons_append, List.nil_append]; rfl⟩
    · split
      · exact ⟨_, by simp only [pduRegisters, List.append_assoc, List.cons_append, List.nil_append]; rfl⟩
      · exact ⟨be16 (sent r), by simp [pduSingle]⟩

/-- The packed coils of `n` values. -/
theorem coilData_length (n : Nat) (val) : (coilData n val).length = ceil8 n := by simp [coilData]

/-- The encoded registers of `n` values. -/
theorem registerData_length (n : Nat) (val) : (registerData n val).length = 2 * n := by simp [registerData]

/-- The length of a PDU. -/
theorem pdu_length (r : Request) (val : Nat → Half) :
    (pdu r val).length = if r.func = 0x0F#8 then 6 + ceil8 r.qty.toNat else if r.func = 0x10#8 then 6 + 2 * r.qty.toNat else 5 := by
  unfold pdu
  by_cases h1 : r.func = 0x0F#8
  · simp [h1, isRead, pduCoils, coilData_length]; omega
  · by_cases h2 : r.func = 0x10#8
    · simp [h2, isRead, pduRegisters, registerData_length]; omega
    · by_cases h3 : isRead r.func = true
      · simp [h1, h2, h3, pduRead]
      · simp [h1, h2, h3, pduSingle]

/-- Every frame begins with SLAVE, FUNC and the address. -/
theorem frame_head (r : Request) (val : Nat → Half) :
    ∃ tl, withCrc (requestBody r val) = [r.slave, r.func] ++ be16 r.addr ++ tl := by
  obtain ⟨tl, h⟩ := pdu_head r val
  exact ⟨tl ++ le16 (crc16 (requestBody r val)), by simp [withCrc, requestBody, h]⟩

/-- A request within bounds has one of the eight codes in FUNC. -/
theorem boundsOk_func (r : Request) (h : boundsOk r = true) :
    r.func ∈ ([0x01#8, 0x02#8, 0x03#8, 0x04#8, 0x05#8, 0x06#8, 0x0F#8, 0x10#8] : List Byte) := by
  by_contra hn
  simp only [List.mem_cons, List.not_mem_nil, or_false, not_or] at hn
  simp [boundsOk, hn] at h

/-- A request that passes the check is within bounds. -/
theorem argsOk_bounds (r : Request) (v) (h : argsOk r v = true) : boundsOk r = true := by
  unfold argsOk at h; simp at h; exact h.1

/-- The slave bound. -/
theorem bounds_slave (r : Request) (h : boundsOk r = true) : 1 ≤ r.slave.toNat ∧ r.slave.toNat ≤ 247 := by
  simp only [boundsOk, Bool.and_eq_true, decide_eq_true_eq] at h
  exact h.1

/-- The FC15 bound. -/
theorem bounds_coils (r : Request) (h : boundsOk r = true) (hf : r.func = 0x0F#8) : r.qty.toNat ≤ 2040 := by
  simp [boundsOk, hf] at h; exact of_decide_eq_true h.2

/-- The FC16 bound. -/
theorem bounds_regs (r : Request) (h : boundsOk r = true) (hf : r.func = 0x10#8) : 1 ≤ r.qty.toNat ∧ r.qty.toNat ≤ 123 := by
  simp [boundsOk, hf] at h; exact of_decide_eq_true h.2

/-- The bound all reads share. -/
theorem bounds_reads (r : Request) (h : boundsOk r = true) (hf : isRead r.func = true) : 1 ≤ r.qty.toNat ∧ r.qty.toNat ≤ 2000 := by
  simp only [isRead, Bool.or_eq_true, beq_iff_eq] at hf
  rcases hf with ((hf|hf)|hf)|hf <;> simp [boundsOk, hf] at h <;> have := of_decide_eq_true h.2 <;> omega

/-- The reads are no writes. -/
theorem isRead_of (f : Byte) (h : f = 0x01#8 ∨ f = 0x02#8 ∨ f = 0x03#8 ∨ f = 0x04#8) : isRead f = true ∧ isWrite f = false := by
  rcases h with h|h|h|h <;> subst h <;> exact ⟨rfl, rfl⟩

/-- The writes are no reads. -/
theorem isWrite_of (f : Byte) (h : f = 0x05#8 ∨ f = 0x06#8 ∨ f = 0x0F#8 ∨ f = 0x10#8) : isRead f = false ∧ isWrite f = true := by
  rcases h with h|h|h|h <;> subst h <;> exact ⟨rfl, rfl⟩

/-- The trailing pair as a number (spec/40_crc.md R126). -/
theorem trailer_nat (r : List Byte) : (trailer r).toNat = (r.getD (r.length - 2) 0#8).toNat + 256 * (r.getD (r.length - 1) 0#8).toNat := by
  unfold trailer word16
  show ((r.getD (r.length - 1) 0#8) ++ (r.getD (r.length - 2) 0#8)).toNat = _
  rw [BitVec.toNat_append, ← Nat.shiftLeft_add_eq_or_of_lt (BitVec.isLt _), Nat.shiftLeft_eq]; omega

/-- The bits of eight coils in a byte. -/
theorem packByte_bits : ∀ a0 a1 a2 a3 a4 a5 a6 a7 : Bool, ∀ k : Fin 8, (BitVec.ofBoolListLE [a0, a1, a2, a3, a4, a5, a6, a7]).getLsbD k = [a0, a1, a2, a3, a4, a5, a6, a7][k] := by decide +kernel

/-- Bit `k` of a packed byte. -/
theorem packByte_bit (f : Nat → Bool) (k : Nat) (hk : k < 8) : (packByte f).getLsbD k = f k := by
  refine (packByte_bits _ _ _ _ _ _ _ _ ⟨k, hk⟩).trans ?_
  have : k = 0 ∨ k = 1 ∨ k = 2 ∨ k = 3 ∨ k = 4 ∨ k = 5 ∨ k = 6 ∨ k = 7 := by omega
  rcases this with rfl|rfl|rfl|rfl|rfl|rfl|rfl|rfl <;> rfl

/-- The echo check as a comparison of four bytes. -/
theorem echoOk_iff (r : Request) (p : List Byte) : echoOk r p = true ↔ p.take 4 = be16 r.addr ++ be16 (sent r) := by
  have key : ∀ (a b : Byte) (v : Half), word16 a b = v ↔ [a, b] = be16 v := by
    intro a b v
    constructor
    · rintro rfl
      have e1 : (word16 a b).extractLsb' 0 8 = b := by
        apply BitVec.eq_of_getLsbD_eq; intro i hi
        rw [BitVec.getLsbD_extractLsb', word16, BitVec.getLsbD_append]; simp [hi]
      have e2 : (word16 a b).extractLsb' 8 8 = a := by
        apply BitVec.eq_of_getLsbD_eq; intro i hi
        rw [BitVec.getLsbD_extractLsb', word16, BitVec.getLsbD_append]; simp [hi]
      rw [be16, e1, e2]
    · intro h
      injection h with h1 h2; injection h2 with h2 _
      subst h1 h2; exact word16_extract v
  unfold echoOk
  simp only [Bool.and_eq_true, decide_eq_true_eq]
  match p with
  | [] => simp [be16]
  | [_] => simp [be16]
  | [_, _] => simp [be16]
  | [_, _, _] => simp [be16]
  | a :: b :: c :: d :: rest =>
    simp only [List.take, List.length_cons]
    have e1 : (a :: b :: c :: d :: rest).getD 0 0#8 = a := rfl
    have e2 : (a :: b :: c :: d :: rest).getD 1 0#8 = b := rfl
    have e3 : (a :: b :: c :: d :: rest).getD 2 0#8 = c := rfl
    have e4 : (a :: b :: c :: d :: rest).getD 3 0#8 = d := rfl
    rw [e1, e2, e3, e4, key, key]
    constructor
    · rintro ⟨⟨-, h1⟩, h2⟩; rw [← h1, ← h2]; rfl
    · intro h
      have := congrArg (List.take 2) h
      have h' := congrArg (List.drop 2) h
      exact ⟨⟨by omega, this⟩, h'⟩

end Sys2Proof.Machine
end

