-- ==== Sys2Proof/Laws/PerInstr.lean ====
section
/-! SUPPORT. The family RoundTrip: decoding the encoding of a well-formed instruction gives it back, one lemma per
constructor. -/

namespace Sys2Proof.Laws

/-- Decoding the encoding of `i` gives `i` and nothing else, if `i` is well formed. -/
def RoundTrip.Statement (i : Instr) : Prop := i.wf = true → decode (encode i) = .ok [i]

theorem functionByte_bit7 (e : Bool) (fn : BitVec 7) : (functionByte e fn).getLsbD 7 = e := by
  show (BitVec.ofBool e ++ fn).getLsbD 7 = e
  rw [BitVec.getLsbD_append]
  cases e <;> rfl

theorem functionByte_toNat (e : Bool) (fn : BitVec 7) :
    (functionByte e fn).toNat = fn.toNat + if e then 128 else 0 := by
  show (BitVec.ofBool e ++ fn).toNat = _
  rw [BitVec.toNat_append, ← Nat.shiftLeft_add_eq_or_of_lt fn.isLt]
  cases e <;> simp
  omega

theorem functionNumber_functionByte (e : Bool) (fn : BitVec 7) : functionNumber (functionByte e fn) = fn := by
  apply BitVec.eq_of_toNat_eq
  have := functionByte_toNat e fn
  have := fn.isLt
  simp only [functionNumber, BitVec.extractLsb'_toNat, Nat.shiftRight_zero]
  split at * <;> omega

theorem RoundTrip.rdCoils (o : Operands) : RoundTrip.Statement (.rdCoils o) := fun _ => rfl
theorem RoundTrip.rdDiscrete (o : Operands) : RoundTrip.Statement (.rdDiscrete o) := fun _ => rfl
theorem RoundTrip.rdHolding (o : Operands) : RoundTrip.Statement (.rdHolding o) := fun _ => rfl
theorem RoundTrip.rdInput (o : Operands) : RoundTrip.Statement (.rdInput o) := fun _ => rfl
theorem RoundTrip.wrCoil (o : Operands) : RoundTrip.Statement (.wrCoil o) := fun _ => rfl
theorem RoundTrip.wrReg (o : Operands) : RoundTrip.Statement (.wrReg o) := fun _ => rfl
theorem RoundTrip.wrCoils (o : Operands) : RoundTrip.Statement (.wrCoils o) := fun _ => rfl
theorem RoundTrip.wrRegs (o : Operands) : RoundTrip.Statement (.wrRegs o) := fun _ => rfl
theorem RoundTrip.start : RoundTrip.Statement .start := fun _ => rfl
theorem RoundTrip.abort : RoundTrip.Statement .abort := fun _ => rfl
theorem RoundTrip.clrOverrun : RoundTrip.Statement .clrOverrun := fun _ => rfl

theorem RoundTrip.rspExc (slave : Byte) (fn : BitVec 7) : RoundTrip.Statement (.rspExc slave fn) := by
  intro _
  simp [decode, encode, decodeResponse, functionByte_bit7, functionNumber_functionByte, Except.map]

theorem RoundTrip.rspRead01 (slave bc : Byte) : RoundTrip.Statement (.rspRead01 slave bc) := fun _ => rfl
theorem RoundTrip.rspRead02 (slave bc : Byte) : RoundTrip.Statement (.rspRead02 slave bc) := fun _ => rfl
theorem RoundTrip.rspRead03 (slave bc : Byte) : RoundTrip.Statement (.rspRead03 slave bc) := fun _ => rfl
theorem RoundTrip.rspRead04 (slave bc : Byte) : RoundTrip.Statement (.rspRead04 slave bc) := fun _ => rfl

theorem RoundTrip.rspEcho (slave : Byte) (fn : BitVec 7) : RoundTrip.Statement (.rspEcho slave fn) := by
  intro h
  have hn : (functionByte false fn).toNat = fn.toNat := functionByte_toNat false fn
  have hw : ¬ (functionByte false fn = 0x01#8 ∨ functionByte false fn = 0x02#8 ∨
      functionByte false fn = 0x03#8 ∨ functionByte false fn = 0x04#8) := by
    have h' : fn.toNat = 0 ∨ 4 < fn.toNat := by simpa [Instr.wf, Decidable.or_iff_not_imp_left, Nat.pos_iff_ne_zero] using h
    rintro (e | e | e | e) <;> rw [e] at hn <;> simp at hn <;> omega
  simp only [decode, encode, decodeResponse, functionByte_bit7, functionNumber_functionByte, if_neg hw]
  rfl

end Sys2Proof.Laws
end

