-- ==== Sys2Proof/Tests/Slice0.lean ====
section
/-! SUPPORT. Tests. Every expected value is from the spec: the vectors of spec/95_test_vectors.md (named S1 to S9, 2.1 to 2.8),
or the cited rule. The second half holds, for each statement with hypotheses, a state and operands that meet them. -/

namespace Sys2Proof.Tests

/-! The proofs below are elaborated one after another: run side by side, they would hold one thread each. -/
set_option Elab.async false

open Sys2Proof.Machine

/-! ## Well-formedness -/

theorem test_wf_refuses_echo_of_read_codes :
    ([1#7, 2#7, 3#7, 4#7].map fun fn => (Instr.rspEcho 0x01#8 fn).wf) = [false, false, false, false] := by decide

theorem test_wf_accepts_echo_of_0_and_5 :
    (Instr.rspEcho 0x01#8 0#7).wf = true ∧ (Instr.rspEcho 0x01#8 5#7).wf = true := by decide

theorem test_wf_accepts_every_other_class :
    (Instr.rspExc 0x01#8 3#7).wf = true ∧ (Instr.rspRead03 0x01#8 0x02#8).wf = true ∧ Instr.start.wf = true ∧
      (Instr.wrCoils ⟨0#8, 0#16, 0xFFFF#16, true⟩).wf = true := by decide

theorem test_wf_refuses_no_attempts : ¬ ({ maxAttempts := 0, rxCapacity := 2048, pollIntervalMs := 50 } : Params).wf := by decide
theorem test_wf_refuses_too_many_attempts : ¬ ({ maxAttempts := 65536, rxCapacity := 2048, pollIntervalMs := 50 } : Params).wf := by decide
theorem test_wf_refuses_small_capacity : ¬ ({ maxAttempts := 40, rxCapacity := 259, pollIntervalMs := 50 } : Params).wf := by decide
theorem test_wf_refuses_large_capacity : ¬ ({ maxAttempts := 40, rxCapacity := 65536, pollIntervalMs := 50 } : Params).wf := by
  decide
theorem test_wf_accepts_both_ends :
    ({ maxAttempts := 1, rxCapacity := 260, pollIntervalMs := 0 } : Params).wf ∧
      ({ maxAttempts := 65535, rxCapacity := 65535, pollIntervalMs := 1000 } : Params).wf ∧ Params.default.wf := by decide

/-! ## Decoding (opcode_table.json; 30_encoding.md R93-R95) -/

/-- The eight function codes, bit by bit. -/
theorem test_decode_commands :
    ([0b00000001#8, 0b00000010#8, 0b00000011#8, 0b00000100#8, 0b00000101#8, 0b00000110#8, 0b00001111#8,
      0b00010000#8].map fun f => decode (.request ⟨0x11#8, f, 0x006B#16, 3#16, true⟩)) =
    (let o : Operands := { slave := 0x11#8, addr := 0x006B#16, qty := 3#16, signed := true }
     [.ok [.rdCoils o], .ok [.rdDiscrete o], .ok [.rdHolding o], .ok [.rdInput o], .ok [.wrCoil o], .ok [.wrReg o],
      .ok [.wrCoils o], .ok [.wrRegs o]]) := rfl

/-- The codes beside the eight ones (D11). -/
theorem test_decode_rejects_other_codes :
    ([0x00#8, 0x07#8, 0x0E#8, 0x11#8, 0x17#8, 0x81#8].map fun f => decode (.request (bareRequest f))) =
    [.error (.illegalFunction 0x00#8), .error (.illegalFunction 0x07#8), .error (.illegalFunction 0x0E#8),
     .error (.illegalFunction 0x11#8), .error (.illegalFunction 0x17#8), .error (.illegalFunction 0x81#8)] := rfl

/-- The CTRL bits, alone and together; bits [15:3] are ignored (R26, R264; 2.7). -/
theorem test_decode_ctrl :
    ([0b0000000000000001#16, 0b0000000000000010#16, 0b0000000000000100#16, 0b0000000000000111#16, 0xFFF8#16].map
      ctrlActions) =
    [[.start], [.abort], [.clrOverrun], [.clrOverrun, .abort, .start], []] := by decide

/-- A word of each response class, bit by bit (R95; 2.4). -/
theorem test_decode_responses :
    decode (.response [0x01#8, 0b10000001#8, 0x02#8, 0xC1#8, 0x91#8]) = .ok [.rspExc 0x01#8 1#7] ∧
    decode (.response [0x01#8, 0b10000000#8]) = .ok [.rspExc 0x01#8 0#7] ∧
    decode (.response [0x01#8, 0b00000001#8, 0x05#8]) = .ok [.rspRead01 0x01#8 0x05#8] ∧
    decode (.response [0x01#8, 0b00000010#8, 0x01#8]) = .ok [.rspRead02 0x01#8 0x01#8] ∧
    decode (.response [0x11#8, 0b00000011#8, 0x06#8]) = .ok [.rspRead03 0x11#8 0x06#8] ∧
    decode (.response [0x01#8, 0b00000100#8, 0x04#8]) = .ok [.rspRead04 0x01#8 0x04#8] ∧
    decode (.response [0x01#8, 0b01111111#8]) = .ok [.rspEcho 0x01#8 0x7F#7] ∧
    decode (.response [0x01#8, 0b00000000#8]) = .ok [.rspEcho 0x01#8 0#7] := ⟨rfl, rfl, rfl, rfl, rfl, rfl, rfl, rfl⟩

/-- Responses too short to be classified (R204). -/
theorem test_decode_short_responses :
    decode (.response []) = .error .noFunctionByte ∧ decode (.response [0x01#8]) = .error .noFunctionByte ∧
    decode (.response [0x01#8, 0x03#8]) = .error .noByteCount := ⟨rfl, rfl, rfl⟩

/-- Every row of opcode_table.json by its own match word; a word of a read class alone reads as the command (log 9). -/
theorem test_table_words :
    ([1, 2, 3, 4, 5, 6, 0x0F, 0x10].map (decodeTableWord 8)) =
      (let o : Operands := { slave := 0#8, addr := 0#16, qty := 0#16, signed := false }
       [some (.rdCoils o), some (.rdDiscrete o), some (.rdHolding o), some (.rdInput o), some (.wrCoil o),
        some (.wrReg o), some (.wrCoils o), some (.wrRegs o)]) ∧
    [1, 2, 4].map (decodeTableWord 16) = [some .start, some .abort, some .clrOverrun] ∧
    [0x80, 0].map (decodeTableWord 8) = [some (.rspExc 0#8 0#7), some (.rspEcho 0#8 0#7)] := by decide

/-! ## Small states -/

/-- The next state, if there is one. -/
def nextOf : Host.Outcome State Fault Refusal → Option State
  | .next t => some t
  | .fault _ | .refused _ => none

/-- A request of slave 1. -/
def reqOf (func : Byte) (addr qty : Half) : Request :=
  { slave := 0x01#8, func := func, addr := addr, qty := qty, signed := false }

/-- The operands of `reqOf`. -/
def opsOf (addr qty : Half) : Operands := { slave := 0x01#8, addr := addr, qty := qty, signed := false }

/-- The request S1: holding register 1000, signed. -/
def requestS1 : Request := { reqOf 0x03#8 0x03E8#16 1#16 with signed := true }

/-- TXB of S1. -/
def frameS1 : List Byte := [0x01#8, 0x03#8, 0x03#8, 0xE8#8, 0x00#8, 0x01#8, 0x04#8, 0x7A#8]

/-- The response of S1. -/
def replyS1 : List Byte := [0x01#8, 0x03#8, 0x02#8, 0xFF#8, 0xFB#8, 0xB8#8, 0x37#8]

/-- Reset with the request `r` in REQ. -/
def staged (r : Request) : State := { State.reset with req := r }

/-- The transaction S1 in a busy phase, with RXB, LINE_RXQ and ATTEMPTS; MAX_ATTEMPTS = 3 and RX_CAPACITY = 260. -/
def busyS1 (p : Phase) (rxb rxq : List Byte) (att : Half) : State :=
  { State.reset with
    phase := p, req := requestS1, act := requestS1, txb := frameS1, crc := 0x7A04#16, rxb := rxb, lineRxq := rxq,
    attempts := att, params := { maxAttempts := 3, rxCapacity := 260, pollIntervalMs := 50 } }

/-- VALIDATING, with the request `r` active and `b` in RXB. -/
def judging (r : Request) (b : List Byte) : State :=
  { State.reset with phase := .validating, act := r, rxb := b, attempts := 1#16 }

/-- STATUS, RES and CRC after an instruction. -/
def resultOf (o : Host.Outcome State Fault Refusal) : Option (Half × List Half × Half) :=
  (nextOf o).map fun t => (statusWord t, t.res, t.crc)

/-- PHASE, TXB and CRC after an instruction. -/
def frameOf (o : Host.Outcome State Fault Refusal) : Option (Phase × List Byte × Half) :=
  (nextOf o).map fun t => (t.phase, t.txb, t.crc)

/-! ## The CRC generator and the Codec -/

/-- S9 and 2.1. -/
theorem test_crc_vectors :
    crc16 [] = 0xFFFF#16 ∧ crc16 [0x00#8] = 0x40BF#16 ∧ crc16 [0x01#8] = 0x807E#16 ∧ crc16 [0xFF#8] = 0x00FF#16 ∧
    crc16 [0xFF#8, 0xFF#8] = 0x0000#16 ∧ crc16 [0x01#8, 0x03#8] = 0x2140#16 := by decide +kernel

/-- S9: the published check value of "123456789". -/
theorem test_crc_check_value :
    crc16 [0x31#8, 0x32#8, 0x33#8, 0x34#8, 0x35#8, 0x36#8, 0x37#8, 0x38#8, 0x39#8] = 0x4B37#16 := by decide +kernel

/-- 2.2. -/
theorem test_codec_vectors :
    packCoils [true, false, true, true, false, false, true, true, true, false] = [0xCD#8, 0x01#8] ∧ packCoils [] = [] ∧
    encodeRegisters [0x000A#16, 0x0102#16] = [0x00#8, 0x0A#8, 0x01#8, 0x02#8] ∧
    decodeRegisters [0x00#8, 0x07#8, 0xF9#8] 1 = none ∧ decodeRegisters [0x00#8, 0x07#8] 2 = none ∧
    decodeRegisters [0xFF#8, 0xFB#8] 1 = some [0xFFFB#16] ∧
    unpackCoils [0xAC#8] 8 = some [0#16, 0#16, 1#16, 1#16, 0#16, 1#16, 0#16, 1#16] ∧
    unpackCoils [0xCD#8, 0x6B#8, 0xB2#8, 0x0E#8] 37 = none := by decide +kernel

/-- 2.2, the last three rows. -/
theorem test_caller_value :
    callerValue true 0x8000#16 = -32768 ∧ callerValue false 0x8000#16 = 32768 ∧ callerValue true 0x7FFF#16 = 32767 := by
  decide

/-- 2.4. -/
theorem test_completion :
    ([[], [0x01#8], [0x01#8, 0x03#8], [0x01#8, 0x03#8, 0x00#8, 0xAA#8], [0x01#8, 0x03#8, 0x00#8, 0xAA#8, 0xBB#8],
      [0x01#8, 0x83#8, 0x02#8, 0xC0#8], [0x01#8, 0x80#8, 0x00#8, 0x00#8, 0x00#8],
      [0x01#8, 0x05#8, 0x00#8, 0x00#8, 0xFF#8, 0x00#8, 0x8C#8],
      [0x01#8, 0x00#8, 0x00#8, 0x00#8, 0x00#8, 0x00#8, 0x00#8, 0x00#8]].map isComplete) =
    [false, false, false, false, true, false, true, false, true] := by decide

/-! ## The commands: START (2.3) and VALIDATE (2.6) -/

theorem test_rdCoils_start :
    frameOf (exec (.rdCoils (opsOf 0x0013#16 37#16)) State.reset) =
      some (.sending, [0x01#8, 0x01#8, 0x00#8, 0x13#8, 0x00#8, 0x25#8, 0x0C#8, 0x14#8], 0x140C#16) := by decide +kernel

/-- Too few bytes for 37 coils. -/
theorem test_rdCoils_decodeError :
    resultOf (exec (.rdCoils (opsOf 0x0013#16 37#16)) (judging (reqOf 0x01#8 0x0013#16 37#16)
      [0x01#8, 0x01#8, 0x04#8, 0xCD#8, 0x6B#8, 0xB2#8, 0x0E#8, 0x41#8, 0xC5#8])) =
      some (0x006D#16, [], 0xC541#16) := by decide +kernel

theorem test_rdDiscrete_start :
    frameOf (exec (.rdDiscrete (opsOf 0x0000#16 8#16)) State.reset) =
      some (.sending, [0x01#8, 0x02#8, 0x00#8, 0x00#8, 0x00#8, 0x08#8, 0x79#8, 0xCC#8], 0xCC79#16) := by decide +kernel

theorem test_rdDiscrete_result :
    resultOf (exec (.rdDiscrete (opsOf 0x0000#16 8#16)) (judging (reqOf 0x02#8 0x0000#16 8#16)
      [0x01#8, 0x02#8, 0x01#8, 0xAC#8, 0xA1#8, 0xF5#8])) =
      some (0x040C#16, [0#16, 0#16, 1#16, 1#16, 0#16, 1#16, 0#16, 1#16], 0xF5A1#16) := by decide +kernel

/-- S1. -/
theorem test_rdHolding_result :
    resultOf (exec (.rdHolding (opsOf 0x03E8#16 1#16)) (judging requestS1 replyS1)) =
      some (0x040C#16, [0xFFFB#16], 0x37B8#16) := by decide +kernel

/-- S4: a wrong low CRC byte. -/
theorem test_rdHolding_corrupted :
    resultOf (exec (.rdHolding (opsOf 0x03E8#16 1#16))
      (judging requestS1 [0x01#8, 0x03#8, 0x02#8, 0xFF#8, 0xFB#8, 0xB9#8, 0x37#8])) =
      some (0x003D#16, [], 0x37B8#16) := by decide +kernel

theorem test_rdInput_start :
    frameOf (exec (.rdInput (opsOf 0x0000#16 2#16)) State.reset) =
      some (.sending, [0x01#8, 0x04#8, 0x00#8, 0x00#8, 0x00#8, 0x02#8, 0x71#8, 0xCB#8], 0xCB71#16) := by decide +kernel

theorem test_rdInput_result :
    resultOf (exec (.rdInput (opsOf 0x0000#16 2#16)) (judging (reqOf 0x04#8 0x0000#16 2#16)
      [0x01#8, 0x04#8, 0x04#8, 0x00#8, 0x0A#8, 0x80#8, 0x00#8, 0xBA#8, 0x46#8])) =
      some (0x040C#16, [0x000A#16, 0x8000#16], 0x46BA#16) := by decide +kernel

/-- S2. -/
theorem test_wrCoil_start :
    frameOf (exec (.wrCoil (opsOf 0x0000#16 1#16)) State.reset) =
      some (.sending, [0x01#8, 0x05#8, 0x00#8, 0x00#8, 0xFF#8, 0x00#8, 0x8C#8, 0x3A#8], 0x3A8C#16) := by decide +kernel

/-- S2: the echo of 0x0000. -/
theorem test_wrCoil_unconfirmed :
    resultOf (exec (.wrCoil (opsOf 0x0000#16 1#16)) (judging (reqOf 0x05#8 0x0000#16 1#16)
      [0x01#8, 0x05#8, 0x00#8, 0x00#8, 0x00#8, 0x00#8, 0xCD#8, 0xCA#8])) =
      some (0x007C#16, [], 0xCACD#16) := by decide +kernel

theorem test_wrReg_confirmed :
    resultOf (exec (.wrReg (opsOf 0x0001#16 0xFFFB#16)) (judging (reqOf 0x06#8 0x0001#16 0xFFFB#16)
      [0x01#8, 0x06#8, 0x00#8, 0x01#8, 0xFF#8, 0xFB#8, 0xD8#8, 0x79#8])) =
      some (0x010C#16, [], 0x79D8#16) := by decide +kernel

/-- The wrong address in the echo. -/
theorem test_wrReg_wrongAddress :
    resultOf (exec (.wrReg (opsOf 0x0001#16 0xFFFB#16)) (judging (reqOf 0x06#8 0x0001#16 0xFFFB#16)
      [0x01#8, 0x06#8, 0x00#8, 0x02#8, 0xFF#8, 0xFB#8, 0x28#8, 0x79#8])) =
      some (0x007C#16, [], 0x7928#16) := by decide +kernel

/-- VAL of the 9-coil write of 2.3. -/
def nineCoils : Memory :=
  [(0, 1#16), (1, 0#16), (2, 1#16), (3, 1#16), (4, 0#16), (5, 0#16), (6, 1#16), (7, 1#16), (8, 1#16)]

theorem test_wrCoils_start :
    frameOf (exec (.wrCoils (opsOf 0x0010#16 9#16)) { State.reset with val := nineCoils }) =
      some (.sending, [0x01#8, 0x0F#8, 0x00#8, 0x10#8, 0x00#8, 0x09#8, 0x02#8, 0xCD#8, 0x01#8, 0x72#8, 0xBC#8],
        0xBC72#16) := by decide +kernel

/-- No coil at all is legal (D13). -/
theorem test_wrCoils_none :
    frameOf (exec (.wrCoils (opsOf 0x0000#16 0#16)) State.reset) =
      some (.sending, [0x01#8, 0x0F#8, 0x00#8, 0x00#8, 0x00#8, 0x00#8, 0x00#8, 0x0B#8, 0x3F#8], 0x3F0B#16) := by
  decide +kernel

theorem test_wrRegs_start :
    frameOf (exec (.wrRegs (opsOf 0x0001#16 2#16)) { State.reset with val := [(0, 0x000A#16), (1, 0x0102#16)] }) =
      some (.sending, [0x01#8, 0x10#8, 0x00#8, 0x01#8, 0x00#8, 0x02#8, 0x04#8, 0x00#8, 0x0A#8, 0x01#8, 0x02#8, 0x92#8,
        0x30#8], 0x3092#16) := by decide +kernel

theorem test_wrRegs_exception :
    resultOf (exec (.wrRegs (opsOf 0x0001#16 2#16)) (judging (reqOf 0x10#8 0x0001#16 2#16)
      [0x01#8, 0x90#8, 0x03#8, 0x0C#8, 0x01#8])) = some (0x005D#16, [], 0x010C#16) := by decide +kernel

/-- R220, R221: the checks run whatever ACT.FUNC is; an empty buffer is NO_RESPONSE. -/
theorem test_validate_unlisted_function :
    (nextOf (takeEvent .core (judging (reqOf 0x07#8 0#16 0#16) []))).map statusWord = some 0x002D#16 := by decide +kernel

/-- R229: `FF FF` passes the CRC check, and its first byte is not the slave. -/
theorem test_validate_residue_of_nothing :
    resultOf (exec (.rdHolding (opsOf 0x0000#16 1#16)) (judging (reqOf 0x03#8 0x0000#16 1#16) [0xFF#8, 0xFF#8])) =
      some (0x004D#16, [], 0xFFFF#16) := by decide +kernel

/-! ## The CTRL actions (2.7) -/

theorem test_start_from_reset :
    (nextOf (exec .start State.reset)).map statusWord = some 0x001D#16 := by decide +kernel

theorem test_start_while_sending :
    (nextOf (exec .start (busyS1 .sending [] [] 0#16))).map statusWord = some 0x0201#16 := by decide +kernel

theorem test_abort_in_awaiting :
    (nextOf (exec .abort (busyS1 .awaiting [0x01#8, 0x03#8] [0x55#8] 1#16))).map
      (fun t => (statusWord t, t.rxb, t.lineRxq, t.attempts)) = some (0x008D#16, [], [], 1#16) := by decide

theorem test_abort_in_sending :
    (nextOf (exec .abort (busyS1 .sending [] [] 0#16))).map statusWord = some 0x0001#16 := by decide

/-- CTRL <- 0x0005 while SENDING: CLR_OVERRUN, then the refused START. -/
theorem test_clrOverrun_before_start :
    (nextOf (takeEvent (.hostWrite 0x0000#16 2 0x0005#16) (busyS1 .sending [] [] 0#16))).map statusWord =
      some 0x0201#16 := by decide +kernel

theorem test_clrOverrun_clears :
    (nextOf (exec .clrOverrun { busyS1 .sending [] [] 0#16 with overrun := true })).map statusWord = some 0x0001#16 := by
  decide

/-- CTRL <- 0x0003 in AWAITING: ABORT, then a new transaction, with OVERRUN kept. -/
theorem test_abort_then_start :
    (nextOf (takeEvent (.hostWrite 0x0000#16 2 0x0003#16)
      { busyS1 .awaiting [0x01#8] [] 1#16 with overrun := true })).map statusWord = some 0x0201#16 := by decide +kernel

/-! ## The response classes: the POLL that classifies them (R200-R203) -/

/-- PHASE after the class, with `n` bytes 0 in RXB. -/
def classified (i : Instr) (n : Nat) : Option Phase :=
  (nextOf (exec i (busyS1 .awaiting (List.replicate n 0#8) [] 1#16))).map (·.phase)

theorem test_rspExc_bound :
    classified (.rspExc 1#8 3#7) 4 = some .awaiting ∧ classified (.rspExc 1#8 3#7) 5 = some .validating := by decide
theorem test_rspRead01_bound :
    classified (.rspRead01 1#8 5#8) 9 = some .awaiting ∧ classified (.rspRead01 1#8 5#8) 10 = some .validating := by decide
theorem test_rspRead02_bound :
    classified (.rspRead02 1#8 1#8) 5 = some .awaiting ∧ classified (.rspRead02 1#8 1#8) 6 = some .validating := by decide
theorem test_rspRead03_bound :
    classified (.rspRead03 1#8 2#8) 6 = some .awaiting ∧ classified (.rspRead03 1#8 2#8) 7 = some .validating := by decide
theorem test_rspRead04_bound :
    classified (.rspRead04 1#8 0#8) 4 = some .awaiting ∧ classified (.rspRead04 1#8 0#8) 5 = some .validating := by decide
theorem test_rspEcho_bound :
    classified (.rspEcho 1#8 5#7) 7 = some .awaiting ∧ classified (.rspEcho 1#8 5#7) 8 = some .validating := by decide

/-! ## SEND, POLL and the Host's registers (2.5; 10_state.md R25) -/

theorem test_send :
    (nextOf (takeEvent .core (busyS1 .sending [] [0x55#8] 0#16))).map
      (fun t => (t.phase, t.lineRxq, t.lineTx, t.attempts)) = some (.awaiting, [], [frameS1], 0#16) := by decide

theorem test_poll_completes :
    (nextOf (takeEvent .core (busyS1 .awaiting [0x01#8, 0x03#8, 0x02#8, 0xFF#8] [0xFB#8, 0xB8#8, 0x37#8] 1#16))).map
      (fun t => (t.phase, t.rxb, t.attempts)) = some (.validating, replyS1, 2#16) := by decide

/-- The budget ends with an incomplete frame. -/
theorem test_poll_exhausts :
    (nextOf (takeEvent .core (busyS1 .awaiting [0x01#8, 0x03#8, 0x02#8] [] 2#16))).map
      (fun t => (t.phase, t.attempts)) = some (.validating, 3#16) := by decide

/-- 300 bytes into RX_CAPACITY = 260: 260 are kept. -/
theorem test_poll_overflows :
    (nextOf (takeEvent .core (busyS1 .awaiting [] (List.replicate 300 0#8) 0#16))).map
      (fun t => (t.phase, t.rxb.length, t.rxovf)) = some (.validating, 260, true) := by decide +kernel

/-- A reserved bit of REQ_SLAVE is dropped, and what is read back is the byte (R35). -/
theorem test_reqSlave_drops_reserved_bits :
    (nextOf (takeEvent (.hostWrite 0x0010#16 2 0xAB11#16) State.reset)).map (fun t => readHost t 0x0010#16 2) =
      some (some 0x0011#16) := by decide

/-- The last entry of VAL, and the reserved offset after it (R25, R63). -/
theorem test_val_window_end :
    registerAt 0x1FEE#16 = .val 2039 ∧ registerAt 0x1FF0#16 = .reserved ∧ registerAt 0x2F9E#16 = .res 1999 ∧
    registerAt 0x3FFE#16 = .rxb 2047 ∧ registerAt 0x420E#16 = .txb 263 ∧ registerAt 0x4210#16 = .reserved := by decide

/-- R98, R99: a negative word of WR_REGS, and the value of WR_COIL on. -/
theorem test_assemble :
    (CommandLine.wrRegs 1 1 [-5]).assemble =
      [wr 0x1000#16 0xFFFB#16, wr 0x0010#16 1#16, wr 0x0012#16 0x0010#16, wr 0x0014#16 1#16, wr 0x0016#16 1#16,
       wr 0x0018#16 0#16, wr 0x0000#16 1#16] ∧
    (CommandLine.wrCoil 1 0 true).assemble =
      [wr 0x0010#16 1#16, wr 0x0012#16 0x0005#16, wr 0x0014#16 0#16, wr 0x0016#16 1#16, wr 0x0018#16 0#16,
       wr 0x0000#16 1#16] := by decide

/-- R99: the lines without operands. -/
theorem test_assemble_control :
    CommandLine.wait.assemble = [.hostWait] ∧ CommandLine.abort.assemble = [wr 0x0000#16 0x0002#16] ∧
    CommandLine.clro.assemble = [wr 0x0000#16 0x0004#16] := ⟨rfl, rfl, rfl⟩

/-- R99: WAIT reads STATUS = 0x0002 in AWAITING and waits on; it reads 0x008D after an ABORT and ends (R27; 2.7). -/
theorem test_wait :
    (nextOf (takeEvent .hostWait { busyS1 .awaiting [] [] 1#16 with inbox := [.hostRead 0x0004#16 2] })).map
      (fun t => (t.hostData, t.inbox)) = some (some 0x0002#16, [.core, .hostWait, .hostRead 0x0004#16 2]) ∧
    (nextOf (takeEvent .hostWait { State.reset with phase := .failed, code := .aborted })).map
      (fun t => (t.hostData, t.inbox)) = some (some 0x008D#16, []) := by decide

/-- The step runs the word that withFetchWord places: RD_HOLDING of a request of zeros is refused as an argument, and a
response class enters its POLL. -/
theorem test_withFetchWord :
    (nextOf (step (State.reset.withFetchWord 8 3))).map (·.phase) = some .failed ∧
    (nextOf (step (State.reset.withFetchWord 8 0x80))).map (fun t => (t.phase, t.rxb)) =
      some (.awaiting, [0#8, 0x80#8, 0#8]) ∧
    (nextOf (step (State.reset.withFetchWord 16 1))).map (·.code) = some .invalidArgument := by decide +kernel


/-! ## Witnesses: states and operands that meet the hypotheses of the statements -/

/-- The outcome is a next state with `P`. -/
def Answers (o : Host.Outcome State Fault Refusal) (P : State → Prop) : Prop := ∃ t, o = .next t ∧ P t

theorem answers_of {o : Host.Outcome State Fault Refusal} {P : State → Prop} [DecidablePred P]
    (h : ((nextOf o).any fun t => decide (P t)) = true) : Answers o P := by
  unfold nextOf at h
  split at h
  · exact ⟨_, rfl, by simpa using h⟩
  · simp at h
  · simp at h

/-- The event takes the state to a next state with `P`. -/
abbrev Reaches (e : Event) (s : State) (P : State → Prop) : Prop := Answers (takeEvent e s) P

/-- The transaction S1 meets the invariant in SENDING, in AWAITING with `att` POLLs behind it, and in VALIDATING with the
whole reply. -/
theorem inv_busyS1 :
    Inv (busyS1 .sending [] [] 0#16) ∧ Inv (busyS1 .awaiting [0x01#8] [] 2#16) ∧
      Inv (busyS1 .validating replyS1 [] 1#16) := by
  have hc : crc16 (crcBody frameS1) = 0x7A04#16 := by decide +kernel
  refine ⟨?_, ?_, ?_⟩ <;>
  · refine ⟨by decide, ⟨by decide, by decide, by decide, .inr (by decide +kernel)⟩, nofun, ⟨by decide, by decide, by decide⟩,
      ⟨by decide, by decide, by decide⟩, ⟨fun _ => by decide, fun _ => hc.symm⟩,
      ⟨by decide, by decide, by decide, by decide, by decide, by decide⟩,
      ⟨by decide, by decide, by decide, by decide, by decide, by decide⟩⟩

/-- The two sides of VALIDATE's CRC check for a buffer, as ValidateChecksInOrder writes it. -/
abbrev goodCrc (r : List Byte) : Prop :=
  (crc16 (r.take (r.length - 2))).toNat =
    (r.getD (r.length - 2) 0#8).toNat + 256 * (r.getD (r.length - 1) 0#8).toNat

/-- A correct frame with the header `h` and the payload `p`. -/
def frameWith (h p : List Byte) : List Byte := h ++ p ++ le16 (crc16 (h ++ p))

/-- ResetMeetsInvariant: the parameters at both ends of their ranges. -/
theorem witness_ResetMeetsInvariant :
    Params.wf ⟨1, 260, 50⟩ ∧ Params.wf ⟨65535, 65535, 0⟩ := by decide

/-- EveryStepKeepsInvariant: good states that step, one of them into AWAITING. -/
theorem witness_EveryStepKeepsInvariant :
    (Inv (busyS1 .sending [] [] 0#16) ∧ Answers (step (busyS1 .sending [] [] 0#16)) fun t => t.phase = .awaiting) ∧
    (Inv (busyS1 .awaiting [0x01#8] [] 2#16) ∧
      Answers (step (busyS1 .awaiting [0x01#8] [] 2#16)) fun t => t.phase = .validating) ∧
    (Inv (busyS1 .validating replyS1 [] 1#16) ∧
      Answers (step (busyS1 .validating replyS1 [] 1#16)) fun t => t.res = [0xFFFB#16]) :=
  ⟨⟨inv_busyS1.1, answers_of (by decide)⟩, ⟨inv_busyS1.2.1, answers_of (by decide)⟩,
    ⟨inv_busyS1.2.2, answers_of (by decide +kernel)⟩⟩

/-- UnlistedFunctionValidates: an ACT.FUNC of 0x07, with a buffer for each clause, the shortest that reaches it (S9: CRC16 of `01`
is 0x807E). -/
theorem witness_UnlistedFunctionValidates :
    let r := reqOf 0x07#8 0#16 0#16
    r.func ∉ ([0x01#8, 0x02#8, 0x03#8, 0x04#8, 0x05#8, 0x06#8, 0x0F#8, 0x10#8] : List Byte) ∧
    (judging r []).phase = .validating ∧
    ¬ goodCrc [0x01#8, 0x07#8] ∧
    (goodCrc [0xFF#8, 0xFF#8] ∧ ([0xFF#8, 0xFF#8] : List Byte).getD 0 0#8 ≠ r.slave) ∧
    (let b := frameWith [0x01#8, 0x87#8, 0x02#8] []
     3 ≤ b.length ∧ goodCrc b ∧ b.getD 0 0#8 = r.slave ∧ b.getD 1 0#8 = r.func ||| 0x80#8) ∧
    (let b := [0x01#8, 0x7E#8, 0x80#8]
     2 ≤ b.length ∧ goodCrc b ∧ b.getD 0 0#8 = r.slave ∧ b.getD 1 0#8 ≠ r.func ||| 0x80#8) := by decide +kernel

/-- DecodeOfEncodeIsInstruction: operands at the ends of their ranges. -/
theorem witness_DecodeOfEncodeIsInstruction :
    (Instr.rdCoils ⟨0xFF#8, 0xFFFF#16, 0xFFFF#16, true⟩).wf = true ∧ (Instr.rspExc 0#8 0x7F#7).wf = true ∧
      (Instr.rspEcho 0#8 0#7).wf = true ∧ (Instr.rspEcho 0xFF#8 5#7).wf = true := by decide

theorem witness_EncodeOfDecodedIsSelector :
    decodeRequest requestS1 = .ok (.rdHolding requestS1.operands) ∧
    decodeResponse replyS1 = .ok (.rspRead03 0x01#8 0x02#8, [0xFF#8, 0xFB#8, 0xB8#8, 0x37#8]) := ⟨rfl, rfl⟩

/-- IllegalFunctionEndsAtStart: codes at the ends of the gaps, and the bytes of its second clause. -/
theorem witness_IllegalFunctionEndsAtStart :
    (∀ f ∈ ([0x00#8, 0x07#8, 0x0E#8, 0x11#8, 0xFF#8] : List Byte), (staged (reqOf f 0#16 1#16)).phase.busy = false ∧
      f ∉ ([0x01#8, 0x02#8, 0x03#8, 0x04#8, 0x05#8, 0x06#8, 0x0F#8, 0x10#8] : List Byte)) ∧
    (0x80#8).getLsbD 7 = true := by decide

/-- StepRunsDecodedInstruction: a state and an instruction for each clause. -/
theorem witness_StepRunsDecodedInstruction :
    ({ State.reset with inbox := [.core] }).inbox = [.core] ∧ State.reset.inbox = [] ∧
    decode (.ctrl 0x0001#16) = .ok [.start] ∧
    ((staged requestS1).phase.busy = false ∧
      decode (.request (staged requestS1).req) = .ok [.rdHolding requestS1.operands]) ∧
    ((busyS1 .validating replyS1 [] 1#16).phase.busy = true ∧
      decode (.request (busyS1 .validating replyS1 [] 1#16).act) = .ok [.rdHolding requestS1.operands]) ∧
    ((busyS1 .awaiting [] replyS1 0#16).phase = .awaiting ∧
      decode (.response (receive (busyS1 .awaiting [] replyS1 0#16)).rxb) = .ok [.rspRead03 0x01#8 0x02#8]) :=
  ⟨rfl, rfl, rfl, ⟨rfl, rfl⟩, ⟨rfl, rfl⟩, ⟨rfl, rfl⟩⟩

/-- CtrlBitsActInOrder: a write that sets all three bits. -/
theorem witness_CtrlBitsActInOrder :
    (0x0007#16).getLsbD 2 = true ∧ (0x0007#16).getLsbD 1 = true ∧ (0x0007#16).getLsbD 0 = true := by decide

/-- StartFollowsPseudocode: a busy state, an accepted request and a refused one. -/
theorem witness_StartFollowsPseudocode :
    (busyS1 .awaiting [] [] 0#16).phase = .awaiting ∧
    ((staged requestS1).phase = .idle ∧ argsOk (staged requestS1).req (valView (staged requestS1)) = true) ∧
    (State.reset.phase = .idle ∧ argsOk State.reset.req (valView State.reset) = false) := by decide +kernel

/-- ArgumentCheckIsSpecBounds: the last value each bound accepts, and the first it refuses (S6; 2.3). -/
theorem witness_ArgumentCheckIsSpecBounds :
    (([(0x01#8, 1#16), (0x01#8, 2000#16), (0x02#8, 2000#16), (0x03#8, 1#16), (0x03#8, 125#16), (0x04#8, 125#16),
        (0x05#8, 0#16), (0x05#8, 1#16), (0x06#8, 0xFFFF#16), (0x0F#8, 0#16), (0x0F#8, 2040#16), (0x10#8, 1#16),
        (0x10#8, 123#16)].map fun p => argsOk (reqOf p.1 0#16 p.2) fun _ => 0#16).all id) = true ∧
    (([(0x01#8, 0#16), (0x01#8, 2001#16), (0x02#8, 2001#16), (0x03#8, 0#16), (0x03#8, 126#16), (0x04#8, 126#16),
        (0x05#8, 2#16), (0x05#8, 0xFF00#16), (0x0F#8, 2041#16), (0x10#8, 0#16), (0x10#8, 124#16),
        (0x07#8, 1#16)].map fun p => argsOk (reqOf p.1 0#16 p.2) fun _ => 0#16).any id) = false ∧
    argsOk { requestS1 with slave := 0#8 } (fun _ => 0#16) = false ∧
    argsOk { requestS1 with slave := 247#8 } (fun _ => 0#16) = true ∧
    argsOk { requestS1 with slave := 248#8 } (fun _ => 0#16) = false ∧
    argsOk (reqOf 0x0F#8 0#16 2#16) (fun i => if i = 0 then 1#16 else 2#16) = false ∧
    (State.reset.phase.busy = false ∧ argsOk State.reset.req (valView State.reset) = false) := by decide +kernel

theorem witness_AbortEndsAwaitingOnly :
    (busyS1 .awaiting [0x01#8] [] 1#16).phase = .awaiting ∧ (busyS1 .sending [] [] 0#16).phase ≠ .awaiting := by decide

/-- OverrunIsStickyUntilCleared: a busy state, an event that sets OVERRUN, and the two that clear it. -/
theorem witness_OverrunIsStickyUntilCleared :
    (busyS1 .sending [] [] 0#16).phase.busy = true ∧ (busyS1 .sending [] [] 0#16).overrun = false ∧
    Reaches (.hostWrite 0#16 2 1#16) (busyS1 .sending [] [] 0#16) (fun t => t.overrun = true) ∧
    Reaches (.hostWrite 0#16 2 4#16) { State.reset with overrun := true } (fun t => t.overrun = false) ∧
    Reaches .reset { State.reset with overrun := true } (fun t => t.overrun = false) :=
  ⟨rfl, rfl, answers_of (by decide), answers_of (by decide), answers_of (by decide)⟩

/-- The four START statements: operands at the ends of their ranges, from a phase that is not busy. -/
theorem witness_ReadStartBuildsFrame :
    State.reset.phase.busy = false ∧ 1 ≤ (1#8).toNat ∧ (247#8).toNat ≤ 247 ∧ 1 ≤ (1#16).toNat ∧
      (2000#16).toNat ≤ 2000 ∧ (125#16).toNat ≤ 125 := by decide

theorem witness_SingleWriteStartBuildsFrame :
    State.reset.phase.busy = false ∧ 1 ≤ (opsOf 0#16 1#16).slave.toNat ∧ (opsOf 0#16 1#16).slave.toNat ≤ 247 ∧
      (opsOf 0#16 1#16).qty = 0x0001#16 ∧ (opsOf 0#16 0#16).qty = 0x0000#16 := by decide

theorem witness_RegisterWriteStartBuildsFrame :
    let s : State := { State.reset with val := [(0, 0x000A#16), (1, 0x0102#16)] }
    let o := opsOf 1#16 2#16
    let ws := [0x000A#16, 0x0102#16]
    s.phase.busy = false ∧ 1 ≤ o.slave.toNat ∧ o.slave.toNat ≤ 247 ∧ o.qty.toNat = ws.length ∧ 1 ≤ ws.length ∧
      ws.length ≤ 123 ∧ ∀ i < ws.length, s.val.read i = ws[i]? := by decide

/-- CoilWriteStartBuildsFrame: one coil, and none. -/
theorem witness_CoilWriteStartBuildsFrame :
    (let s : State := { State.reset with val := [(0, 0x0001#16)] }
     let o := opsOf 0#16 1#16
     let bs := [true]
     s.phase.busy = false ∧ 1 ≤ o.slave.toNat ∧ o.slave.toNat ≤ 247 ∧ o.qty.toNat = bs.length ∧ bs.length ≤ 2040 ∧
       ∀ i < bs.length, s.val.read i = bs[i]?.map fun b => if b then 0x0001#16 else 0x0000#16) ∧
    (opsOf 0#16 0#16).qty.toNat = ([] : List Bool).length := by decide

/-- BuiltFrameLengths: each clause, and TX_MAX at both ends of its range. -/
theorem witness_BuiltFrameLengths :
    argsOk (reqOf 0x03#8 0#16 1#16) (fun _ => 0#16) = true ∧ argsOk (reqOf 0x0F#8 0#16 0#16) (fun _ => 0#16) = true ∧
    argsOk (reqOf 0x0F#8 0#16 2033#16) (fun _ => 0#16) = true ∧
    argsOk (reqOf 0x0F#8 0#16 2040#16) (fun _ => 0#16) = true ∧
    argsOk (reqOf 0x10#8 0#16 123#16) (fun _ => 0#16) = true := by decide +kernel

/-- TableUpdateEqualsBitwise: the printed entries of 2.1. -/
theorem witness_TableUpdateEqualsBitwise :
    crcTable.getD 0x80 0#16 = 0xA001#16 ∧ crcTable.getD 0xFF 0#16 = 0x4040#16 ∧ 0xFF < 256 := by decide

theorem witness_CrcResidueIsZero : 2 ≤ ([0xFF#8, 0xFF#8] : List Byte).length := by decide

theorem witness_RegisterRoundTrip :
    callerValue true (BitVec.ofInt 16 (-32768)) = -32768 ∧ callerValue true (BitVec.ofInt 16 32767) = 32767 ∧
      callerValue false (BitVec.ofInt 16 65535) = 65535 ∧ callerValue false (BitVec.ofInt 16 0) = 0 := by decide

/-- PackedBitsLowestFirst: bit 7 of byte 0 of eight values, and the padding of one value. -/
theorem witness_PackedBitsLowestFirst :
    0 < (([false, false, false, false, false, false, false, true] : List Bool).length + 7) / 8 ∧ 7 < 8 ∧
    (packCoils [false, false, false, false, false, false, false, true]) = [0x80#8] ∧ packCoils [true] = [0x01#8] := by
  decide

theorem witness_SendFlushesAndEmits :
    (busyS1 .sending [] [0x55#8] 0#16).phase = .sending ∧ (Instr.rdHolding requestS1.operands).isCommand 0x03#8 = true := by
  decide

theorem witness_PollAppendsAndCounts :
    (busyS1 .awaiting [] replyS1 2#16).phase = .awaiting ∧ (Instr.wrRegs requestS1.operands).isCommand 0x10#8 = true := by
  decide

/-- CompletionIsMonotoneAndExact: a complete buffer, and read responses at ByteCount 0 and 2. -/
theorem witness_CompletionIsMonotoneAndExact :
    isComplete replyS1 = true ∧
    (1 ≤ (1#8).toNat ∧ (1#8).toNat ≤ 4 ∧ ([0xAA#8] : List Byte).length + 4 = (0#8).toNat + 5) ∧
    (1 ≤ (4#8).toNat ∧ (4#8).toNat ≤ 4 ∧ ([0xFF#8, 0xFB#8, 0xB8#8] : List Byte).length + 4 = (2#8).toNat + 5) := by decide

/-- ResponseClassesComplete: a state at the bound, one at the end of the budget, and one that is neither. -/
theorem witness_ResponseClassesComplete :
    (let s := busyS1 .awaiting [0#8, 0#8, 0#8, 0#8, 0#8] [] 1#16
     s.phase = .awaiting ∧ 5 ≤ s.rxb.length) ∧
    (let s := busyS1 .awaiting [] [] 3#16
     s.phase = .awaiting ∧ s.attempts.toNat = s.params.maxAttempts) ∧
    (let s := busyS1 .awaiting [0#8, 0#8, 0#8, 0#8] [] 2#16
     ¬ (s.phase = .awaiting ∧ (5 ≤ s.rxb.length ∨ s.attempts.toNat = s.params.maxAttempts))) := by decide

/-- ValidateChecksInOrder: a buffer for each clause, the shortest that reaches it (S3, S4; 2.6). -/
theorem witness_ValidateChecksInOrder :
    (Instr.rdHolding requestS1.operands).isCommand 0x03#8 = true ∧ (judging requestS1 []).phase = .validating ∧
    requestS1.func = 0x03#8 ∧
    ¬ goodCrc [0x01#8, 0x03#8] ∧
    (goodCrc [0xFF#8, 0xFF#8] ∧ ([0xFF#8, 0xFF#8] : List Byte).getD 0 0#8 ≠ requestS1.slave) ∧
    (let r := [0x01#8, 0x83#8, 0x02#8, 0xC0#8, 0xF1#8]
     3 ≤ r.length ∧ goodCrc r ∧ r.getD 0 0#8 = requestS1.slave ∧ r.getD 1 0#8 = 0x03#8 ||| 0x80#8) ∧
    (goodCrc replyS1 ∧ replyS1.getD 0 0#8 = requestS1.slave ∧ replyS1.getD 1 0#8 ≠ 0x03#8 ||| 0x80#8) := by decide +kernel

theorem witness_ExceptionByteAlwaysPresent :
    let s := judging requestS1 [0x01#8, 0x7E#8, 0x80#8]
    boundsOk s.act = true ∧ 2 ≤ s.rxb.length ∧ crcMatches s.rxb = true ∧ s.rxb.getD 0 0#8 = s.act.slave :=
  ⟨by decide, by decide, by decide +kernel, rfl⟩

/-- RXB passes every check that stands before the decoder of the command with FUNC `f`. -/
abbrev PassesChecks (f : Byte) (s : State) : Prop :=
  s.phase = .validating ∧ s.act.func = f ∧ 2 ≤ s.rxb.length ∧
    s.rxb.drop (s.rxb.length - 2) = le16 (crc16 (s.rxb.take (s.rxb.length - 2))) ∧
    s.rxb.getD 0 0#8 = s.act.slave ∧ s.rxb.getD 1 0#8 ≠ f ||| 0x80#8

/-- The payload after a header of `h` bytes, as the statements write it. -/
abbrev dataOf (h : Nat) (s : State) : List Byte := (s.rxb.take (s.rxb.length - 2)).drop h

/-- RD_DISCRETE of slave 1 with `q` coils and `b` in RXB. -/
abbrev coilRead (q : Half) (b : List Byte) : State := judging (reqOf 0x02#8 0#16 q) b

/-- CoilReadDecodes: exactly enough bytes for 8 coils, one too few for 9, and the buffers of 5 bytes and of 3 (S9: CRC16 of
`01` is 0x807E). -/
theorem witness_CoilReadDecodes :
    (Instr.rdDiscrete (opsOf 0#16 8#16)).isCommand 0x02#8 = true ∧
    (let s := coilRead 8#16 (frameWith [0x01#8, 0x02#8, 0x01#8] [0xAC#8])
     PassesChecks 0x02#8 s ∧ (s.act.qty.toNat + 7) / 8 ≤ (dataOf 3 s).length) ∧
    (let s := coilRead 9#16 (frameWith [0x01#8, 0x02#8, 0x01#8] [0xAC#8])
     PassesChecks 0x02#8 s ∧ (dataOf 3 s).length < (s.act.qty.toNat + 7) / 8) ∧
    (let s := coilRead 1#16 (frameWith [0x01#8, 0x02#8, 0x00#8] [])
     PassesChecks 0x02#8 s ∧ s.rxb.length ≤ 5 ∧ 1 ≤ s.act.qty.toNat) ∧
    (let s := coilRead 1#16 [0x01#8, 0x7E#8, 0x80#8]
     PassesChecks 0x02#8 s ∧ s.rxb.length ≤ 5 ∧ 1 ≤ s.act.qty.toNat) := by decide +kernel

/-- RD_HOLDING of slave 1 with `q` registers and `b` in RXB. -/
abbrev registerRead (q : Half) (b : List Byte) : State := judging (reqOf 0x03#8 0#16 q) b

/-- RegisterReadDecodes: two bytes for one register, and for two, and the buffers of 5 bytes and of 4 (S9: CRC16 of `01 03` is
0x2140). -/
theorem witness_RegisterReadDecodes :
    (Instr.rdHolding (opsOf 0#16 1#16)).isCommand 0x03#8 = true ∧
    (let s := registerRead 1#16 (frameWith [0x01#8, 0x03#8, 0x02#8] [0xFF#8, 0xFB#8])
     PassesChecks 0x03#8 s ∧ (dataOf 3 s).length = 2 * s.act.qty.toNat) ∧
    (let s := registerRead 2#16 (frameWith [0x01#8, 0x03#8, 0x02#8] [0xFF#8, 0xFB#8])
     PassesChecks 0x03#8 s ∧ (dataOf 3 s).length ≠ 2 * s.act.qty.toNat) ∧
    (let s := registerRead 1#16 (frameWith [0x01#8, 0x03#8, 0x00#8] [])
     PassesChecks 0x03#8 s ∧ s.rxb.length ≤ 5 ∧ 1 ≤ s.act.qty.toNat) ∧
    (let s := registerRead 1#16 [0x01#8, 0x03#8, 0x40#8, 0x21#8]
     PassesChecks 0x03#8 s ∧ s.rxb.length ≤ 5 ∧ 1 ≤ s.act.qty.toNat) := by decide +kernel

/-- WR_COIL on, of slave 1 and address 0, with `b` in RXB. -/
abbrev coilWrite (b : List Byte) : State := judging (reqOf 0x05#8 0#16 1#16) b

/-- WriteEchoDecides: the echo of what was sent, of another value, and buffers of 7 bytes and of 3 (S2; S9; 2.6). -/
theorem witness_WriteEchoDecides :
    (Instr.wrCoil (opsOf 0#16 1#16)).isCommand 0x05#8 = true ∧ isWrite 0x05#8 = true ∧
    (coilWrite []).act.qty = 0x0001#16 ∧
    (let s := coilWrite (frameWith [0x01#8, 0x05#8] [0x00#8, 0x00#8, 0xFF#8, 0x00#8])
     PassesChecks 0x05#8 s ∧ (dataOf 2 s).take 4 = be16 s.act.addr ++ be16 0xFF00#16) ∧
    (let s := coilWrite (frameWith [0x01#8, 0x05#8] [0x00#8, 0x00#8, 0x00#8, 0x00#8])
     PassesChecks 0x05#8 s ∧ (dataOf 2 s).take 4 ≠ be16 s.act.addr ++ be16 0xFF00#16) ∧
    (let s := coilWrite (frameWith [0x01#8, 0x05#8] [0x00#8, 0x00#8, 0xFF#8])
     PassesChecks 0x05#8 s ∧ s.rxb.length < 8) ∧
    (let s := coilWrite [0x01#8, 0x7E#8, 0x80#8]
     PassesChecks 0x05#8 s ∧ s.rxb.length < 8) := by decide +kernel

theorem witness_SlaveExceptionReported :
    let s := judging requestS1 (frameWith [0x01#8, 0x83#8, 0x02#8] [])
    (Instr.rdHolding requestS1.operands).isCommand 0x03#8 = true ∧ s.phase = .validating ∧ s.act.func = 0x03#8 ∧
      s.rxb = frameWith [s.act.slave, 0x03#8 ||| 0x80#8, 0x02#8] [] := ⟨rfl, rfl, rfl, rfl⟩

/-- WindowsReadTheirArrays: an entry of each window, at the windows' last indexes where the array is short to write. -/
theorem witness_WindowsReadTheirArrays :
    (2039 < 2040 ∧ Memory.read [(2039, 0x1234#16)] 2039 = some 0x1234#16) ∧
    (let s : State := { State.reset with resValid := true, act := requestS1, res := [0xFFFB#16] }
     0 < 2000 ∧ s.resValid = true ∧ 0 < s.act.qty.toNat ∧ s.res[0]? = some 0xFFFB#16) ∧
    (6 < 2048 ∧ replyS1[6]? = some 0x37#8) ∧ (7 < 264 ∧ frameS1[7]? = some 0x7A#8) ∧
    2047 < 2048 ∧ 263 < 264 := by decide

/-- ReservedAndReadOnlyIgnoreWrites: the ends of each range. -/
theorem witness_ReservedAndReadOnlyIgnoreWrites :
    ([0x000E#16, 0x001A#16, 0x0FFE#16, 0x1FF0#16, 0x1FFE#16, 0x2FA0#16, 0x2FFE#16, 0x4210#16, 0xFFFE#16].all fun off =>
      off.toNat % 2 == 0 && registerAt off == .reserved) = true ∧
    ([0x0002#16, 0x000C#16, 0x2000#16, 0x2F9E#16, 0x3000#16, 0x420E#16].all fun off =>
      off.toNat % 2 == 0 && registerAt off != .reserved) = true := by decide

theorem witness_MisalignedAccessIsIgnored : (0x0001#16).toNat % 2 = 1 ∧ (0x0000#16).toNat % 2 = 0 ∧ (1 : Nat) ≠ 2 := by
  decide

theorem witness_ValWriteStoresOneEntry :
    2039 < 2040 ∧ State.reset.val.wf ∧ Memory.wf [(2039, 0x1234#16)] := by decide

/-- PhaseChangesAreTheTable: an event for each row of R251. -/
theorem witness_PhaseChangesAreTheTable :
    Reaches (.hostWrite 0#16 2 1#16) State.reset (fun t => t.phase = .failed) ∧
    Reaches (.hostWrite 0#16 2 1#16) (staged requestS1) (fun t => t.phase = .sending) ∧
    Reaches .core (busyS1 .sending [] [] 0#16) (fun t => t.phase = .awaiting) ∧
    Reaches .core (busyS1 .awaiting [] replyS1 0#16) (fun t => t.phase = .validating) ∧
    Reaches (.hostWrite 0#16 2 2#16) (busyS1 .awaiting [] [] 1#16) (fun t => t.phase = .failed) ∧
    Reaches (.hostWrite 0#16 2 3#16) (busyS1 .awaiting [] [] 1#16) (fun t => t.phase = .sending) ∧
    Reaches .core (busyS1 .validating replyS1 [] 1#16) (fun t => t.phase = .completed) :=
  ⟨answers_of (by decide +kernel), answers_of (by decide +kernel), answers_of (by decide +kernel),
    answers_of (by decide +kernel), answers_of (by decide +kernel), answers_of (by decide +kernel),
    answers_of (by decide +kernel)⟩

/-- A completed transaction. -/
def doneS1 : State := { busyS1 .completed replyS1 [] 1#16 with resValid := true, res := [0xFFFB#16], crc := 0x37B8#16 }

theorem witness_ResultsStableWhileDone :
    doneS1.phase.done = true ∧ Reaches (.deliver [0x55#8]) doneS1 (fun t => t.lineRxq = [0x55#8]) ∧
      (Event.deliver [0x55#8]).setsCtrlBit 0 = false := ⟨rfl, answers_of (by decide), rfl⟩

theorem witness_OnlySendTransmits :
    Reaches .core (busyS1 .sending [] [] 0#16) (fun t => t.lineTx = [frameS1]) := answers_of (by decide)

theorem witness_BusyRequestWritesAreInvisible :
    (busyS1 .validating replyS1 [] 1#16).phase.busy = true ∧
      Reaches .core (busyS1 .validating replyS1 [] 1#16) (fun t => t.res = [0xFFFB#16]) :=
  ⟨rfl, answers_of (by decide +kernel)⟩

/-- RequestChangesOnlyByHost: an event for each clause. -/
theorem witness_RequestChangesOnlyByHost :
    (Reaches .core (busyS1 .sending [] [] 0#16) (fun t => t.phase = .awaiting) ∧
      ∀ off w v, Event.core ≠ .hostWrite off w v) ∧
    (Reaches (.hostWrite 0#16 2 1#16) (staged requestS1) (fun t => t.act = requestS1) ∧
      (Event.hostWrite 0#16 2 1#16).isCtrlWrite = true) ∧
    (Reaches (.hostWrite 0x0012#16 2 6#16) (staged requestS1) (fun t => t.req.func = 6#8) ∧
      (Event.hostWrite 0x0012#16 2 6#16).setsCtrlBit 0 = false) ∧
    (Reaches (.hostWrite 0x001A#16 2 6#16) (staged requestS1) (fun t => t.req = requestS1) ∧ 0x0018 < (0x001A#16).toNat) ∧
    (Reaches (.hostWrite 0x0FFE#16 2 6#16) (staged requestS1) (fun t => t.val = []) ∧ (0x0FFE#16).toNat < 0x1000) ∧
    (Reaches (.hostWrite 0x1FF0#16 2 6#16) (staged requestS1) (fun t => t.val = []) ∧ 0x1FEE < (0x1FF0#16).toNat) ∧
    (let s := { busyS1 .awaiting [] [] 1#16 with req := reqOf 0x06#8 0#16 1#16 }
     Reaches (.hostWrite 0#16 2 1#16) s (fun t => t.act = requestS1 ∧ t.overrun = true) ∧ s.phase.busy = true ∧
       (Event.hostWrite 0#16 2 1#16).setsCtrlBit 1 = false) :=
  ⟨⟨answers_of (by decide), nofun⟩, ⟨answers_of (by decide +kernel), rfl⟩, ⟨answers_of (by decide), rfl⟩,
    ⟨answers_of (by decide), by decide⟩, ⟨answers_of (by decide), by decide⟩, ⟨answers_of (by decide), by decide⟩,
    ⟨answers_of (by decide), rfl, rfl⟩⟩

/-- RxovfTellsDroppedBytes: a POLL that drops one byte, and the three ways out. -/
theorem witness_RxovfTellsDroppedBytes :
    (let s := busyS1 .awaiting (List.replicate 259 0#8) [0#8, 0#8] 0#16
     s.rxb.length ≤ s.params.rxCapacity ∧ s.params.rxCapacity < s.rxb.length + s.lineRxq.length ∧ s.rxovf = false ∧
       Reaches .core s fun t => t.rxovf = true) ∧
    Reaches .core { busyS1 .sending [] [] 0#16 with rxovf := true } (fun t => t.rxovf = false) ∧
    Reaches (.hostWrite 0#16 2 1#16) { staged requestS1 with rxovf := true } (fun t => t.rxovf = false) ∧
    Reaches .reset { State.reset with rxovf := true } (fun t => t.rxovf = false) :=
  ⟨⟨by decide +kernel, by decide +kernel, rfl, answers_of (by decide +kernel)⟩, answers_of (by decide),
    answers_of (by decide +kernel), answers_of (by decide)⟩

/-- CrcHoldsLastComputation: an event for each clause. -/
theorem witness_CrcHoldsLastComputation :
    Reaches (.hostWrite 0#16 2 1#16) (staged requestS1) (fun t => t.crc ≠ (staged requestS1).crc) ∧
    Reaches .core (busyS1 .validating replyS1 [] 1#16) (fun t => t.crc ≠ (busyS1 .validating replyS1 [] 1#16).crc) ∧
    Reaches .reset doneS1 (fun t => t.crc ≠ doneS1.crc) :=
  ⟨answers_of (by decide +kernel), answers_of (by decide +kernel), answers_of (by decide +kernel)⟩

/-- ResultsComeOnlyFromValidate: an exception, a read that writes RES, and a confirmed write. -/
theorem witness_ResultsComeOnlyFromValidate :
    Reaches .core (judging requestS1 [0x01#8, 0x83#8, 0x02#8, 0xC0#8, 0xF1#8]) (fun t => t.excCode = 2#8) ∧
    Reaches .core (judging requestS1 replyS1) (fun t => t.resValid = true ∧ t.res = [0xFFFB#16]) ∧
    Reaches .core (judging (reqOf 0x05#8 0#16 1#16) [0x01#8, 0x05#8, 0x00#8, 0x00#8, 0xFF#8, 0x00#8, 0x8C#8, 0x3A#8])
      (fun t => t.confirmed = true) :=
  ⟨answers_of (by decide +kernel), answers_of (by decide +kernel), answers_of (by decide +kernel)⟩

/-- CommandLineRunsCommand: a read, a write of a value list that fills VAL, and a slave in range. -/
theorem witness_CommandLineRunsCommand :
    State.reset.phase.busy = false ∧ encode (.rdHolding requestS1.operands) = .request requestS1 ∧
    encode (.wrCoils (opsOf 0#16 2040#16)) = .request (reqOf 0x0F#8 0#16 2040#16) ∧
    (List.replicate 2040 0x0001#16).length ≤ 2040 ∧ State.reset.val.wf ∧ 255 < 256 :=
  ⟨rfl, rfl, rfl, List.length_replicate.le, by decide, by decide⟩

/-- WaitInIdleNeverEnds: steps of the Line and the Core and a reset, and a Host's program or none after the WAIT. -/
theorem witness_WaitInIdleNeverEnds :
    State.reset.phase = .idle ∧ (∀ e ∈ ([.deliver [0x55#8], .core, .reset] : List Event), e.isHost = false) ∧
    (∀ e ∈ ([.hostRead 0x0004#16 2] : List Event).head?, e.isHost = true) ∧
    (∀ e ∈ ([] : List Event).head?, e.isHost = true) := by decide

/-- EveryTransactionEnds: S1 from SENDING, with its five Core steps and a delivery between them; and a WAIT for it. -/
theorem witness_EveryTransactionEnds :
    let s := busyS1 .sending [] [] 0#16
    let es : List Event := [.core, .core, .deliver [0x01#8], .core, rd 0x0002#16, .core, .core]
    (Inv s ∧ s.phase.busy = true ∧ (∀ e ∈ es, e.quiet = true) ∧ stepsLeft s ≤ es.count .core) ∧
    (∀ e ∈ ([.core, .deliver [0x01#8]] : List Event), e = .core ∨ ∃ d, e = .deliver d) ∧
    (∀ e ∈ ([.hostRead 0x0004#16 2] : List Event).head?, e.isHost = true) :=
  ⟨⟨inv_busyS1.1, rfl, by decide, by decide⟩, by simp, by decide⟩

/-- S1's reply in two chunks: nothing, then three bytes, then four. -/
def pollsS1 : List (List (List Byte)) :=
  [[], [[0x01#8, 0x03#8, 0x02#8]], [[0xFF#8, 0xFB#8, 0xB8#8, 0x37#8]]]

/-- LinePremiseDeliversResponse: S1 with the budget spent exactly. -/
theorem witness_LinePremiseDeliversResponse :
    let s := busyS1 .awaiting [] [] 0#16
    s.params.wf ∧ s.phase = .awaiting ∧ s.rxb = [] ∧ s.lineRxq = [] ∧ s.attempts = 0#16 ∧
      LineOk s.params pollsS1 replyS1 ∧ IsFrame replyS1 :=
  ⟨by decide, rfl, rfl, rfl, rfl, ⟨rfl, by decide, _, rfl, by decide⟩, by decide⟩

/-- S1's reply is the frame of the word 0xFFFB. -/
theorem replyS1_frame : withCrc [0x01#8, 0x03#8, 0x02#8, 0xFF#8, 0xFB#8] = replyS1 := by decide +kernel

theorem witness_RegisterReadTransaction :
    let s := staged requestS1
    s.params.wf ∧ s.phase.busy = false ∧ s.req.func = 0x03#8 ∧ 1 ≤ s.req.slave.toNat ∧ s.req.slave.toNat ≤ 247 ∧
      s.req.qty.toNat = [0xFFFB#16].length ∧
      LineOk s.params pollsS1
        (withCrc ([s.req.slave, 0x03#8, BitVec.ofNat 8 (2 * [0xFFFB#16].length)] ++ encodeRegisters [0xFFFB#16])) :=
  ⟨by decide, rfl, rfl, by decide, by decide, by decide,
    ⟨(show pollsS1.flatten.flatten = replyS1 by decide).trans replyS1_frame.symm, by decide, _, rfl, by decide⟩⟩

/-- S2's echo of 0xFF00, and its echo of 0x0000. -/
def echoOn : List Byte := [0x01#8, 0x05#8, 0x00#8, 0x00#8, 0xFF#8, 0x00#8, 0x8C#8, 0x3A#8]
def echoOff : List Byte := [0x01#8, 0x05#8, 0x00#8, 0x00#8, 0x00#8, 0x00#8, 0xCD#8, 0xCA#8]

theorem echoOn_frame : withCrc [0x01#8, 0x05#8, 0x00#8, 0x00#8, 0xFF#8, 0x00#8] = echoOn := by decide +kernel
theorem echoOff_frame : withCrc [0x01#8, 0x05#8, 0x00#8, 0x00#8, 0x00#8, 0x00#8] = echoOff := by decide +kernel

/-- SingleWriteTransaction: S2 with both echoes. -/
theorem witness_SingleWriteTransaction :
    let s := staged (reqOf 0x05#8 0#16 1#16)
    s.params.wf ∧ s.phase.busy = false ∧ s.req.func = 0x05#8 ∧ s.req.qty = 0x0001#16 ∧ 1 ≤ s.req.slave.toNat ∧
      s.req.slave.toNat ≤ 247 ∧
      LineOk s.params [[echoOn]] (withCrc ([s.req.slave, 0x05#8] ++ be16 s.req.addr ++ be16 0xFF00#16)) ∧
      LineOk s.params [[echoOff]] (withCrc ([s.req.slave, 0x05#8] ++ be16 s.req.addr ++ be16 0x0000#16)) :=
  ⟨by decide, rfl, rfl, rfl, by decide, by decide,
    ⟨(show [[echoOn]].flatten.flatten = echoOn by decide).trans echoOn_frame.symm, by decide, _, rfl, by decide⟩,
    ⟨(show [[echoOff]].flatten.flatten = echoOff by decide).trans echoOff_frame.symm, by decide, _, rfl, by decide⟩⟩

end Sys2Proof.Tests
end

section
/-! The step and the instructions it runs: what the selectors of the three spaces decode to, and what the machine does where
it meets them. -/

namespace Sys2Proof.Machine

/-- A CTRL write decodes to one instruction exactly where that is its one action. -/
theorem decode_ctrl_singleton (v : Half) (i : Instr) : decode (.ctrl v) = .ok [i] ↔ ctrlActions v = [i] := by
  simp [decode]

/-- A request decodes to one instruction exactly where FUNC selects it. -/
theorem decode_request_singleton (r : Request) (i : Instr) :
    decode (.request r) = .ok [i] ↔ decodeRequest r = .ok i := by
  cases h : decodeRequest r <;> simp [decode, h, Except.map]

/-- A response decodes to one instruction exactly where its header selects it. -/
theorem decode_response_singleton (bs : List Byte) (i : Instr) :
    decode (.response bs) = .ok [i] ↔ ∃ rest, decodeResponse bs = .ok (i, rest) := by
  cases h : decodeResponse bs with
  | error e => simp [decode, h, Except.map]
  | ok p =>
    obtain ⟨j, rest⟩ := p
    simp [decode, h, Except.map]

/-- A CTRL write with one action is that action. -/
theorem runActions_singleton (i : Instr) (s : State) : runActions [i] s = exec i s := by
  obtain ⟨t, h⟩ := exec_next i s
  simp [runActions, h]

/-- A write of 16 bits at offset 0 runs its actions (spec/46_master_api.md R264). -/
theorem takeEvent_ctrlWrite (v : Half) (s : State) :
    takeEvent (.hostWrite 0x0000#16 2 v) s = runActions (ctrlActions v) s := rfl

/-- The command a request selects takes the next step of that request's transaction. -/
theorem exec_of_decodeRequest (r : Request) (i : Instr) (h : decodeRequest r = .ok i) :
    ∃ fin, ∀ s, exec i s = .next (commandStep r fin s) := by
  have joined : ∀ f, r.func = f → r.operands.request f = r := fun f hf => hf ▸ request_operands r
  rcases decodeRequest_cases r i h with ⟨hf, rfl⟩ | ⟨hf, rfl⟩ | ⟨hf, rfl⟩ | ⟨hf, rfl⟩ | ⟨hf, rfl⟩ | ⟨hf, rfl⟩ |
    ⟨hf, rfl⟩ | ⟨hf, rfl⟩ <;> rw [← joined _ hf] <;> exact ⟨_, fun _ => rfl⟩

/-- START of a request that selects a command is that command (spec/46_master_api.md R250, R252). -/
theorem exec_start_eq_command (s : State) (i : Instr) (hb : s.phase.busy = false) (h : decodeRequest s.req = .ok i) :
    exec .start s = exec i s := by
  obtain ⟨fin, hi⟩ := exec_of_decodeRequest _ _ h
  rw [hi, commandStep_rest _ _ _ hb]
  rfl

/-- The Core's turn in a busy phase is the step of the command in ACT (spec/46_master_api.md R250, R251). -/
theorem coreTurn_eq_command (s : State) (i : Instr) (hb : s.phase.busy = true) (h : decodeRequest s.act = .ok i) :
    coreTurn s = exec i s := by
  obtain ⟨fin, hi⟩ := exec_of_decodeRequest _ _ h
  cases hp : s.phase with
  | sending => rw [coreTurn_sending s hp, hi, commandStep, hp]
  | awaiting => rw [coreTurn_awaiting s hp, hi, commandStep, hp]
  | validating => simp only [coreTurn, hp, h]
  | idle | completed | failed => simp [hp, Phase.busy] at hb

/-- A response class and the completion predicate wait for the same number of bytes (spec/44_response_assembler.md
R200-R203). -/
theorem decodeResponse_bound (bs : List Byte) (i : Instr) (rest : List Byte) (h : decodeResponse bs = .ok (i, rest)) :
    ∃ n, isComplete bs = decide (n ≤ bs.length) ∧ ∀ s, exec i s = .next (detectAt n s) := by
  rcases decodeResponse_cases bs i rest h with ⟨sl, fc, rfl, h7, rfl⟩ | ⟨sl, bc, rfl, rfl⟩ | ⟨sl, bc, rfl, rfl⟩ |
    ⟨sl, bc, rfl, rfl⟩ | ⟨sl, bc, rfl, rfl⟩ | ⟨sl, fc, rfl, h7, hr, rfl⟩
  · exact ⟨5, by simp [isComplete, h7], fun _ => rfl⟩
  on_goal 5 => exact ⟨8, by simp only [isComplete, h7, Bool.false_eq_true, if_false, if_neg hr], fun _ => rfl⟩
  all_goals exact ⟨readLength bc, rfl, fun _ => rfl⟩

/-- In AWAITING the detector ends the POLL. -/
theorem detectAt_awaiting (n : Nat) (s : State) (hp : s.phase = .awaiting) :
    detectAt n s = closePoll (decide (n ≤ s.rxb.length)) s := by rw [detectAt, hp]

/-- The Core's turn in AWAITING is the response class of the buffer, on the state after the receipt (spec/42_transport.md
R163). -/
theorem coreTurn_eq_response (s : State) (i : Instr) (rest : List Byte) (hp : s.phase = .awaiting)
    (h : decodeResponse (receive s).rxb = .ok (i, rest)) : coreTurn s = exec i (receive s) := by
  obtain ⟨n, hn, hi⟩ := decodeResponse_bound _ _ _ h
  rw [coreTurn_awaiting s hp, hi, detectAt_awaiting n (receive s) hp, ← hn, poll]

/-- Settles O10: one lemma per place where the machine meets a selector, and the equation of a WAIT step. -/
theorem stepRunsDecodedInstruction : Obligations.StepRunsDecodedInstruction := by
  refine ⟨step_event, step_silent, fun s v i h => ?_, fun s i hb h => ?_, fun s i hb h => ?_, fun s i hp h => ?_,
    fun s => ⟨statusWord s, ?_, ?_⟩⟩
  · rw [takeEvent_ctrlWrite, (decode_ctrl_singleton v i).1 h, runActions_singleton]
  · exact exec_start_eq_command s i hb ((decode_request_singleton _ i).1 h)
  · exact coreTurn_eq_command s i hb ((decode_request_singleton _ i).1 h)
  · obtain ⟨rest, h⟩ := (decode_response_singleton _ i).1 h
    exact coreTurn_eq_response s i rest hp h
  · exact hostRead_value s 0x0002#16 .status _ rfl rfl rfl
  · rw [statusWord_done, takeEvent, hostWait_eq]

end Sys2Proof.Machine
end

section
/-! The invariant of the core: what it says in a busy phase, and one lemma for each way a step can leave. -/

namespace Sys2Proof.Machine

/-! ### Request frames -/

/-- A request that passes the check builds a legal frame (spec/43_frame_builder.md R186, R187). -/
theorem frameOk_of_argsOk (r : Request) (val : Nat → Half) (h : argsOk r val = true) :
    frameOk (withCrc (requestBody r val)) := by
  have hb := argsOk_bounds r val h
  have hl : (withCrc (requestBody r val)).length = (pdu r val).length + 3 := by simp [requestBody]
  have hlen : 5 ≤ (pdu r val).length ∧ (pdu r val).length ≤ 261 := by
    rw [pdu_length]
    split
    next hf => have := bounds_coils r hb hf; unfold ceil8; omega
    next =>
      split
      next hf => have := bounds_regs r hb hf; omega
      next => omega
  have hf := (listed_iff r.func).1 (boundsOk_func r hb)
  obtain ⟨tl, hh⟩ := frame_head r val
  refine ⟨by omega, by rw [hl, Config.txMax]; omega, crcMatches_withCrc _, ?_⟩
  rw [hh]
  obtain ⟨hlo, hhi⟩ := bounds_slave r hb
  exact ⟨hlo, hhi, by simpa using hf⟩

/-- A built frame begins with SLAVE, FUNC and the address of its request. -/
theorem frame_take_four (r : Request) (val : Nat → Half) :
    (withCrc (requestBody r val)).take 4 = [r.slave, r.func] ++ be16 r.addr := by
  obtain ⟨tl, h⟩ := frame_head r val
  rw [h]
  rfl

/-! ### The invariant in a busy phase -/

/-- What the invariant says of a transaction in flight: nothing is decided, and ACT and TXB are its request. -/
theorem Inv.inFlight {s : State} (h : Inv s) (hb : s.phase.busy = true) :
    s.code = .ok ∧ s.excCode = 0#8 ∧ s.resValid = false ∧ s.confirmed = false ∧ boundsOk s.act = true ∧
      s.txb.take 4 = [s.act.slave, s.act.func] ++ be16 s.act.addr ∧ frameOk s.txb := by
  obtain ⟨-, ⟨-, -, -, htxb⟩, -, -, ⟨-, -, hcode⟩, ⟨hact, -⟩, ⟨-, hoff, -, -, -, hexc⟩, -⟩ := h
  have hrest : s.phase.done = false ∧ s.phase ≠ .completed ∧ s.phase ≠ .idle := by
    cases hp : s.phase <;> simp [hp, Phase.busy, Phase.done] at hb ⊢
  obtain ⟨hd, hc, hi⟩ := hrest
  have hok := hcode hd
  obtain ⟨hbounds, htake⟩ := hact ⟨hi, by simp [hok]⟩
  obtain ⟨hrv, hconf⟩ := hoff (.inl hc)
  refine ⟨hok, hexc (by simp [hok]), hrv, hconf, hbounds, htake, htxb.resolve_left fun he => ?_⟩
  simp [he] at htake

/-- A busy state meets the invariant if its buffers, the line, the budget, the request in flight and RXB do. -/
theorem inv_of_inFlight {t : State} (hb : t.phase.busy = true) (hp : t.params.wf) (harr : InvArrays t) (hline : InvLine t)
    (hatt : InvAttempts t) (hcode : t.code = .ok) (hexc : t.excCode = 0#8) (hres : t.resValid = false)
    (hconf : t.confirmed = false) (hbounds : boundsOk t.act = true)
    (htake : t.txb.take 4 = [t.act.slave, t.act.func] ++ be16 t.act.addr)
    (hcrc : t.phase = .sending ∨ t.phase = .awaiting → t.crc = crc16 (crcBody t.txb))
    (hsend : t.phase = .sending → t.rxb = []) (hawait : t.phase = .awaiting → isComplete t.rxb = false)
    (hval : t.phase = .validating → isComplete t.rxb = true ∨ t.attempts.toNat = t.params.maxAttempts) : Inv t := by
  have hrest : t.phase ≠ .completed ∧ t.phase ≠ .failed ∧ t.phase ≠ .idle := by
    cases hph : t.phase <;> simp [hph, Phase.busy] at hb ⊢
  obtain ⟨hc, hf, hi⟩ := hrest
  refine ⟨hp, harr, hline, hatt, ?_, ⟨fun _ => ⟨hbounds, htake⟩, hcrc⟩, ?_, ?_⟩
  · simp [InvOutcome, hcode, hc, hf]
  · simp [InvFlags, hcode, hc, hexc, hres, hconf]
  · simpa [InvBuffer, hcode, hi] using ⟨hsend, hawait, hval⟩

/-! ### The operations -/

/-- Reset meets the invariant, whatever came before. -/
theorem inv_resetCore (s : State) (hp : s.params.wf) : Inv (resetCore s) := by
  refine ⟨hp, ?_, ?_, ?_, ?_, ?_, ?_, ?_⟩ <;>
    simp [InvArrays, Memory.wf, InvLine, InvAttempts, InvOutcome, InvActive, InvFlags, InvBuffer, isComplete]

/-- An accepted START begins a transaction (spec/46_master_api.md R252). -/
theorem inv_issue_accepted (r : Request) (s : State) (h : Inv s) (ha : argsOk r (valView s) = true) :
    Inv { buildFrame r (valView s) (clearForStart r s) with phase := .sending } := by
  obtain ⟨hp, ⟨hval, hres, -, -⟩, hline, -⟩ := h
  refine inv_of_inFlight rfl hp ⟨hval, hres, Nat.zero_le _, .inr (frameOk_of_argsOk r _ ha)⟩ hline
    ⟨Nat.zero_le _, fun _ => rfl, nofun⟩ rfl rfl rfl rfl (argsOk_bounds r _ ha) (frame_take_four r _) (fun _ => ?_) (fun _ => rfl) nofun nofun
  simp

/-- A START that fails the check ends in INVALID_ARGUMENT with TXB empty (spec/46_master_api.md R253). -/
theorem inv_issue_refused (r : Request) (s : State) (h : Inv s) :
    Inv (fail .invalidArgument { clearForStart r s with txb := [] }) := by
  obtain ⟨hp, ⟨hval, hres, -, -⟩, hline, -⟩ := h
  refine ⟨hp, ⟨hval, hres, Nat.zero_le _, .inl rfl⟩, hline, ?_, ?_, ?_, ?_, ?_⟩ <;>
    simp [InvAttempts, InvOutcome, InvActive, InvFlags, InvBuffer, isComplete, Phase.done]

/-- OVERRUN is no part of the invariant. -/
theorem inv_overrun (s : State) (b : Bool) (h : Inv s) : Inv { s with overrun := b } := h

theorem inv_issue (r : Request) (s : State) (h : Inv s) : Inv (issue r s) := by
  rcases issue_cases r s with ⟨-, he⟩ | ⟨-, ha, he⟩ | ⟨-, -, he⟩ <;> rw [he]
  · exact inv_overrun s true h
  · exact inv_issue_accepted r s h ha
  · exact inv_issue_refused r s h

theorem inv_send (s : State) (h : Inv s) (hph : s.phase = .sending) : Inv (send s) := by
  obtain ⟨hcode, hexc, hrv, hconf, hbounds, htake, hframe⟩ := h.inFlight (by simp [hph, Phase.busy])
  obtain ⟨hp, ⟨hval, hres, -, htxb⟩, hline, -, -, ⟨-, hcrc⟩, -⟩ := h
  refine inv_of_inFlight rfl hp ⟨hval, hres, Nat.zero_le _, htxb⟩ ?_ ⟨Nat.zero_le _, fun _ => rfl, fun _ => hp.1⟩
    hcode hexc hrv hconf hbounds htake (fun _ => hcrc (.inl hph)) nofun (fun _ => rfl) nofun
  intro f hf
  rcases List.mem_append.1 hf with hf | hf
  · exact hline f hf
  · exact List.mem_singleton.1 hf ▸ hframe

/-- A POLL counts one attempt: below the budget the count does not wrap. -/
theorem receive_attempts_toNat (s : State) (hp : s.params.wf) (ha : s.attempts.toNat < s.params.maxAttempts) :
    (receive s).attempts.toNat = s.attempts.toNat + 1 := by
  obtain ⟨-, hmax, -⟩ := hp
  simp only [Config.maxParam] at hmax
  simp only [receive_attempts, BitVec.toNat_add, BitVec.toNat_ofNat]
  omega

/-- RXB never grows beyond RX_CAPACITY. -/
theorem receive_rxb_length (s : State) (h : s.rxb.length ≤ s.params.rxCapacity) :
    (receive s).rxb.length ≤ s.params.rxCapacity := by
  simp only [receive_rxb, List.length_append, List.length_take]
  omega

theorem inv_poll (s : State) (h : Inv s) (hph : s.phase = .awaiting) : Inv (poll s) := by
  obtain ⟨hcode, hexc, hrv, hconf, hbounds, htake, -⟩ := h.inFlight (by simp [hph, Phase.busy])
  obtain ⟨hp, ⟨hval, hres, hrxb, htxb⟩, hline, ⟨-, -, hbelow⟩, -, ⟨-, hcrc⟩, -⟩ := h
  have hcount := receive_attempts_toNat s hp (hbelow hph)
  have hbudget := hbelow hph
  have harr : InvArrays (receive s) := ⟨hval, hres, receive_rxb_length s hrxb, htxb⟩
  rcases closePoll_cases (isComplete (receive s).rxb) (receive s) with ⟨hend, he⟩ | ⟨hopen, hleft, he⟩ <;>
    rw [poll, he]
  · exact inv_of_inFlight rfl hp harr hline ⟨by simp only [receive_params] at *; omega, by simp, by simp⟩ hcode hexc hrv
      hconf hbounds htake (by simp) nofun nofun fun _ => hend
  · refine inv_of_inFlight (by simp [hph, Phase.busy]) hp harr hline ⟨?_, ?_, ?_⟩ hcode hexc hrv hconf hbounds htake
      (fun _ => hcrc (.inr hph)) (by simp [hph]) (fun _ => hopen) (by simp [hph])
    · simp only [receive_params] at *; omega
    · simp [hph]
    · simp only [receive_params] at *; omega

/-- ABORT in AWAITING discards what came (spec/46_master_api.md R262). -/
theorem inv_discard (s : State) (h : Inv s) (hph : s.phase = .awaiting) : Inv { s with rxb := [], lineRxq := [] } := by
  obtain ⟨hcode, hexc, hrv, hconf, hbounds, htake, -⟩ := h.inFlight (by simp [hph, Phase.busy])
  obtain ⟨hp, ⟨hval, hres, -, htxb⟩, hline, hatt, -, ⟨-, hcrc⟩, -⟩ := h
  exact inv_of_inFlight (by simp [hph, Phase.busy]) hp ⟨hval, hres, Nat.zero_le _, htxb⟩ hline hatt hcode hexc hrv hconf hbounds
    htake hcrc (fun _ => rfl) (fun _ => rfl) (by simp [hph])

/-- A transaction in flight that ends in FAILED with a code other than INVALID_ARGUMENT, with the evidence the code needs; EXC_CODE
is left for SLAVE_EXCEPTION alone. -/
theorem inv_fail (c : OutcomeCode) (e : Byte) (s : State) (h : Inv s) (hb : s.phase.busy = true)
    (hc : c ≠ .ok ∧ c ≠ .writeNotConfirmed ∧ c ≠ .invalidArgument)
    (hnone : c = .noResponse → s.rxb = [] ∧ s.attempts.toNat = s.params.maxAttempts)
    (habort : c = .aborted → s.rxb = [] ∧ s.attempts.toNat < s.params.maxAttempts)
    (hdec : c = .decodeError → isRead s.act.func = true) (hexc : c ≠ .slaveException → e = 0#8) :
    Inv (fail c { s with excCode := e }) := by
  obtain ⟨-, -, hrv, hconf, hbounds, htake, -⟩ := h.inFlight hb
  obtain ⟨hok, hwnc, hinv⟩ := hc
  obtain ⟨hp, harr, hline, ⟨hatt, -⟩, -⟩ := h
  refine ⟨hp, harr, hline, ⟨hatt, nofun, nofun⟩, ⟨nofun, fun _ => ⟨hok, hwnc⟩, nofun⟩, ⟨fun _ => ⟨hbounds, htake⟩, by simp⟩,
    ⟨nofun, fun _ => ⟨hrv, hconf⟩, by simp [hrv], by simp [hwnc], hdec, hexc⟩,
    ⟨by simp, nofun, nofun, hnone, by simp [hinv], habort⟩⟩

/-- A failure that leaves EXC_CODE alone. -/
theorem inv_fail_plain (c : OutcomeCode) (s : State) (h : Inv s) (hb : s.phase.busy = true)
    (hc : c ≠ .ok ∧ c ≠ .writeNotConfirmed ∧ c ≠ .invalidArgument)
    (hnone : c = .noResponse → s.rxb = [] ∧ s.attempts.toNat = s.params.maxAttempts)
    (habort : c = .aborted → s.rxb = [] ∧ s.attempts.toNat < s.params.maxAttempts)
    (hdec : c = .decodeError → isRead s.act.func = true) : Inv (fail c s) :=
  have ⟨_, hexc, _⟩ := h.inFlight hb
  inv_fail c s.excCode s h hb hc hnone habort hdec fun _ => hexc

theorem inv_abort (s : State) (h : Inv s) (hph : s.phase = .awaiting) :
    Inv (fail .aborted { s with rxb := [], lineRxq := [] }) :=
  have ⟨_, _, _, ⟨_, _, hbelow⟩, _⟩ := h
  inv_fail_plain .aborted _ (inv_discard s h hph) (by simp [hph, Phase.busy]) (by simp) nofun
    (fun _ => ⟨rfl, hbelow hph⟩) nofun

/-! ### VALIDATE -/

/-- In VALIDATING the invariant does not read CRC. -/
theorem inv_crc (s : State) (c : Half) (h : Inv s) (hph : s.phase = .validating) : Inv { s with crc := c } := by
  obtain ⟨hp, harr, hline, hatt, hout, ⟨hact, -⟩, hflags, hbuf⟩ := h
  exact ⟨hp, harr, hline, hatt, hout, ⟨hact, by simp [hph]⟩, hflags, hbuf⟩

/-- A transaction in flight that completes: the flags and RES must fit the kind of the request. -/
theorem inv_complete (c : OutcomeCode) (rv conf : Bool) (res : List Half) (s : State) (h : Inv s) (hb : s.phase.busy = true)
    (hc : c = .ok ∧ rv = isRead s.act.func ∧ conf = isWrite s.act.func ∨
      c = .writeNotConfirmed ∧ rv = false ∧ conf = false ∧ isWrite s.act.func = true)
    (hlen : res.length ≤ Config.resDepth) (hres : rv = true → s.act.qty.toNat ≤ res.length) :
    Inv (completeWith c { s with res := res, resValid := rv, confirmed := conf }) := by
  obtain ⟨-, hexc, -, -, hbounds, htake, -⟩ := h.inFlight hb
  obtain ⟨hp, ⟨hval, -, hrxb, htxb⟩, hline, ⟨hatt, -⟩, -⟩ := h
  refine ⟨hp, ⟨hval, hlen, hrxb, htxb⟩, hline, ⟨hatt, nofun, nofun⟩, ?_, ⟨fun _ => ⟨hbounds, htake⟩, by simp⟩, ?_, ?_⟩
  · rcases hc with ⟨rfl, -⟩ | ⟨rfl, -⟩ <;> simp [InvOutcome, Phase.done]
  · rcases hc with ⟨rfl, hr, hw⟩ | ⟨rfl, hr, hw, hwr⟩
    · exact ⟨fun _ => ⟨hr, hw⟩, by simp, hres, nofun, nofun, fun _ => hexc⟩
    · exact ⟨by simp, fun _ => ⟨hr, hw⟩, hres, fun _ => hwr, nofun, fun _ => hexc⟩
  · rcases hc with ⟨rfl, -⟩ | ⟨rfl, -⟩ <;> simp [InvBuffer]

/-- RES after the results `ws` are written over it is as long as the longer of the two. -/
theorem writeResults_length (ws res : List Half) : (writeResults ws res).length = max ws.length res.length := by
  simp only [writeResults, List.length_append, List.length_drop]
  omega

/-- The end of a read: DECODE_ERROR, or the results of the whole request. -/
theorem inv_finishRead (d : Option (List Half)) (s : State) (h : Inv s) (hb : s.phase.busy = true)
    (hrd : isRead s.act.func = true) (hwr : isWrite s.act.func = false) (hd : ∀ ws, d = some ws → ws.length = s.act.qty.toNat) :
    Inv (finishRead d s) := by
  obtain ⟨-, -, -, hconf, hbounds, -⟩ := h.inFlight hb
  have ⟨_, ⟨_, hres, _⟩, _⟩ := h
  rcases finishRead_cases d s with ⟨-, he⟩ | ⟨ws, hws, he⟩ <;> rw [he]
  · exact inv_fail_plain .decodeError s h hb (by simp) nofun nofun fun _ => hrd
  · have hlen := writeResults_length ws s.res
    have hqty := (bounds_reads s.act hbounds hrd).2
    rw [hd ws hws] at hlen
    exact inv_complete .ok true s.confirmed (writeResults ws s.res) s h hb (.inl ⟨rfl, hrd.symm, hconf.trans hwr.symm⟩)
      (by simp only [Config.resDepth] at *; omega) fun _ => by omega

/-- The end of a write: confirmed or not. -/
theorem inv_finishWrite (p : List Byte) (s : State) (h : Inv s) (hb : s.phase.busy = true)
    (hrd : isRead s.act.func = false) (hwr : isWrite s.act.func = true) : Inv (finishWrite p s) := by
  obtain ⟨-, -, hrv, -⟩ := h.inFlight hb
  have ⟨_, ⟨_, hres, _⟩, _⟩ := h
  rcases finishWrite_cases p s with ⟨-, he⟩ | ⟨-, he⟩ <;> rw [he]
  · exact inv_complete .ok s.resValid true s.res s h hb (.inl ⟨rfl, hrv.trans hrd.symm, hwr.symm⟩) hres (by simp [hrv])
  · exact inv_complete .writeNotConfirmed s.resValid false s.res s h hb (.inr ⟨rfl, hrv, rfl, hwr⟩) hres (by simp [hrv])

/-- VALIDATE keeps the invariant if its decoder does. -/
theorem inv_validate (fin : List Byte → State → State) (s : State) (h : Inv s) (hph : s.phase = .validating)
    (hfin : ∀ p c, Inv { s with crc := c } → Inv (fin p { s with crc := c })) : Inv (validate fin s) := by
  have hb : s.phase.busy = true := by simp [hph, Phase.busy]
  have hcrc := inv_crc s (crc16 (crcBody s.rxb)) h hph
  have ⟨_, _, _, _, _, _, _, ⟨_, _, hwhy, _⟩⟩ := h
  rcases validate_cases fin s with ⟨h0, he⟩ | ⟨-, he⟩ | ⟨-, -, he⟩ | ⟨-, -, -, he⟩ | ⟨-, -, -, -, he⟩ | ⟨-, -, -, -, he⟩ <;>
    rw [he]
  · have hnil := List.length_eq_zero_iff.1 h0
    refine inv_fail_plain .noResponse s h hb (by simp) (fun _ => ⟨hnil, (hwhy hph).resolve_left ?_⟩) nofun nofun
    simp [hnil, isComplete]
  · exact inv_fail_plain .frameCorruption s h hb (by simp) nofun nofun nofun
  · exact inv_fail_plain .frameCorruption _ hcrc hb (by simp) nofun nofun nofun
  · exact inv_fail_plain .addressMismatch _ hcrc hb (by simp) nofun nofun nofun
  · exact inv_fail .slaveException (exceptionByte s) _ hcrc hb (by simp) nofun nofun nofun (by simp)
  · exact hfin _ _ hcrc

/-! ### The step -/

theorem inv_coreTurn (s t : State) (h : Inv s) (ht : coreTurn s = .next t) : Inv t := by
  rcases coreTurn_cases s t ht with ⟨-, rfl⟩ | ⟨hph, rfl⟩ | ⟨hph, rfl⟩ | ⟨hph, -⟩
  · exact h
  · exact inv_send s h hph
  · exact inv_poll s h hph
  · have hb : s.phase.busy = true := by simp [hph, Phase.busy]
    obtain ⟨-, -, -, -, hbounds, -⟩ := h.inFlight hb
    rcases coreTurn_validate s t hph ht with ⟨fin, hrd, hwr, rfl, hread⟩ | ⟨hrd, hwr, rfl⟩ | ⟨hrd, hwr, -⟩
    · refine inv_validate fin s h hph fun p c hc => ?_
      obtain ⟨d, hd, hlen⟩ := hread p { s with crc := c } rfl
      exact hd ▸ inv_finishRead d _ hc hb hrd hwr hlen
    · exact inv_validate finishWrite s h hph fun p c hc => inv_finishWrite p _ hc hb hrd hwr
    · have := (listed_iff s.act.func).1 (boundsOk_func s.act hbounds)
      simp [hrd, hwr] at this

theorem inv_ctrlWrite (v : Half) (s t : State) (h : Inv s) (ht : runActions (ctrlActions v) s = .next t) : Inv t := by
  obtain ⟨a, b, ha, hb, rfl⟩ := ctrlWrite_cases v s t ht
  have hia : Inv a := by
    rw [ha]
    split
    · exact inv_overrun s false h
    · exact h
  have hpa : a.phase = s.phase := by rw [ha]; split <;> rfl
  have hib : Inv b := by
    rw [hb]
    split
    next hab => exact inv_abort a hia (hpa.trans hab.2)
    next => exact hia
  split
  · exact inv_issue b.req b hib
  · exact hib

theorem inv_takeEvent (e : Event) (s t : State) (h : Inv s) (ht : takeEvent e s = .next t) : Inv t := by
  have ⟨_, ⟨hval, _⟩, _⟩ := h
  cases e with
  | hostWrite off width v =>
    simp only [takeEvent, hostWrite] at ht
    split at ht
    · split at ht
      · exact inv_ctrlWrite v s t h ht
      · cases ht
        have hwf := writeRegister_val_wf v s off hval
        rw [writeRegister_frame]
        exact inv_congr s _ h rfl rfl rfl rfl rfl rfl rfl rfl rfl rfl rfl rfl rfl hwf
    · cases ht; exact h
  | hostRead off width => cases ht; rw [hostRead_frame]; exact h
  | hostWait => cases ht; rw [hostWait_frame]; exact h
  | deliver d => cases ht; exact h
  | core => exact inv_coreTurn s t h ht
  | reset => cases ht; exact inv_resetCore s h.1

/-- Settles O3: the inbox is no part of the invariant, and every event keeps it. -/
theorem everyStepKeepsInvariant : Obligations.EveryStepKeepsInvariant := by
  intro s t h ht
  cases hin : s.inbox with
  | nil => exact inv_coreTurn s t h (step_silent s hin ▸ ht)
  | cons e rest => exact inv_takeEvent e { s with inbox := rest } t h (step_event s e rest hin ▸ ht)

end Sys2Proof.Machine
end

section
/-! Reset, the opcode words, and the Host's registers. -/

namespace Sys2Proof.Machine

/-- Settles O1: `resetCore`, field by field. -/
theorem resetLeavesSpecValues : Obligations.ResetLeavesSpecValues := fun s =>
  ⟨resetCore s, rfl, rfl, rfl, rfl, rfl, rfl, rfl, rfl, rfl, rfl, rfl, rfl, fun _ => rfl, fun _ => rfl, rfl, rfl, rfl, rfl, rfl⟩

/-- Settles O2: a reset state is its own reset. -/
theorem resetMeetsInvariant : Obligations.ResetMeetsInvariant :=
  ⟨inv_resetCore State.reset (by decide), fun p hp => inv_resetCore { State.reset with params := p } hp⟩

/-- Settles O8: the words of the three selector spaces, bit by bit. -/
theorem specWordsDecode : Obligations.SpecWordsDecode :=
  ⟨rfl, rfl, rfl, rfl, rfl, rfl, rfl, rfl⟩

/-- Settles O39: a read stores what it returned, and draws where the spec gives no value. -/
theorem hostReadHasNoSideEffect : Obligations.HostReadHasNoSideEffect := by
  intro s off width
  simp only [takeEvent, hostRead]
  split
  next v _ => exact ⟨v, s.draws, rfl⟩
  next => exact ⟨drawnRead s off width, s.draws + 1, rfl⟩

/-! ### STATUS -/

/-- Bits [2:0] of STATUS are PHASE (spec/10_state.md R27). -/
theorem statusWord_phase (s : State) : (statusWord s).extractLsb' 0 3 = s.phase.number := BitVec.extractLsb'_append_eq_right

/-- Bits [7:4] are CODE. -/
theorem statusWord_code (s : State) : (statusWord s).extractLsb' 4 4 = s.code.number := by
  rw [statusWord, BitVec.extractLsb'_append_eq_of_le (by decide), BitVec.extractLsb'_append_eq_of_le (by decide)]
  exact BitVec.extractLsb'_append_eq_right

/-- Bits 8 to 11 are the four flags. -/
theorem statusWord_flags (s : State) :
    (statusWord s).getLsbD 8 = s.confirmed ∧ (statusWord s).getLsbD 9 = s.overrun ∧
      (statusWord s).getLsbD 10 = s.resValid ∧ (statusWord s).getLsbD 11 = s.rxovf := by
  simp only [statusWord, BitVec.getLsbD_append]
  refine ⟨?_, ?_, ?_, ?_⟩
  · cases s.confirmed <;> rfl
  · cases s.overrun <;> rfl
  · cases s.resValid <;> rfl
  · cases s.rxovf <;> rfl

/-- Bits [15:12] read 0. -/
theorem statusWord_reserved (s : State) : (statusWord s).extractLsb' 12 4 = 0#4 := by
  unfold statusWord
  repeat rw [BitVec.extractLsb'_append_eq_of_le (by decide)]
  rfl

/-- Settles O40: the bits of STATUS, and the numbers of PHASE and CODE. -/
theorem statusFieldsReadBack : Obligations.StatusFieldsReadBack := by
  intro s
  obtain ⟨hconf, hovr, hres, hovf⟩ := statusWord_flags s
  refine ⟨statusWord s, hostRead_value s 0x0002#16 .status _ rfl rfl rfl, ?_, ?_, ?_, hconf, hovr, hres, hovf,
    statusWord_reserved s⟩
  · rw [statusWord_phase]
    cases s.phase <;> rfl
  · rw [statusWord_done]
    cases s.phase <;> rfl
  · rw [statusWord_code]
    cases s.code <;> rfl

/-! ### The other registers -/

/-- A byte register reads its byte with bits [15:8] = 0 (spec/20_memory.md R67). -/
theorem byteRegister_eq (b : Byte) : byteRegister b = 0#8 ++ b := by
  apply BitVec.eq_of_toNat_eq
  have := b.isLt
  simp only [byteRegister, BitVec.toNat_setWidth, BitVec.toNat_append, BitVec.toNat_ofNat, Nat.zero_mod, Nat.zero_shiftLeft,
    Nat.zero_or]
  omega

/-- Settles O41: each offset of the map with the value of its register. -/
theorem singleRegistersRead : Obligations.SingleRegistersRead := by
  intro s
  simp only [← byteRegister_eq]
  refine ⟨hostRead_value s _ .ctrl _ rfl rfl rfl, hostRead_value s _ .excCode _ rfl rfl rfl,
    hostRead_value s _ .attempts _ rfl rfl rfl, hostRead_value s _ .rxlen _ rfl rfl rfl,
    hostRead_value s _ .txlen _ rfl rfl rfl, hostRead_value s _ .crc _ rfl rfl rfl,
    hostRead_value s _ .reqSlave _ rfl rfl rfl, hostRead_value s _ .reqFunc _ rfl rfl rfl,
    hostRead_value s _ .reqAddr _ rfl rfl rfl, hostRead_value s _ .reqQtyval _ rfl rfl rfl,
    hostRead_value s _ .reqFlags _ rfl rfl ?_⟩
  cases h : s.req.signed <;> simp [readRegister, h]

/-- A 16-bit Host write to a register other than CTRL. -/
theorem takeEvent_hostWrite (s : State) (off : Half) (v : Half) (r : Register) (ha : isAligned off 2 = true)
    (hr : registerAt off = r) (hc : r ≠ .ctrl) : takeEvent (.hostWrite off 2 v) s = .next (writeRegister v s r) := by
  subst hr
  simp only [takeEvent, hostWrite]
  rw [if_pos ha, if_neg hc]

/-- Settles O45: each request register at its offset. -/
theorem requestRegistersStore : Obligations.RequestRegistersStore := by
  intro s v
  have low : v.setWidth 8 = v.extractLsb' 0 8 := BitVec.setWidth_eq_extractLsb' (by decide)
  simp only [← low]
  exact ⟨takeEvent_hostWrite s _ v .reqSlave rfl rfl nofun, takeEvent_hostWrite s _ v .reqFunc rfl rfl nofun,
    takeEvent_hostWrite s _ v .reqAddr rfl rfl nofun, takeEvent_hostWrite s _ v .reqQtyval rfl rfl nofun,
    takeEvent_hostWrite s _ v .reqFlags rfl rfl nofun⟩

/-! ### The array windows -/

/-- The offset of entry `i` of a window is even, and its number is `base + 2*i` (spec/10_state.md R25). -/
theorem window_offset (base i : Nat) (hb : base % 2 = 0) (hi : base + 2 * i < 65536) :
    (BitVec.ofNat 16 (base + 2 * i)).toNat = base + 2 * i ∧ isAligned (BitVec.ofNat 16 (base + 2 * i)) 2 = true := by
  have hn : (BitVec.ofNat 16 (base + 2 * i)).toNat = base + 2 * i := by
    rw [BitVec.toNat_ofNat]
    exact Nat.mod_eq_of_lt hi
  exact ⟨hn, (aligned_iff _ 2).2 ⟨rfl, by omega⟩⟩

/-- Where the map finds the entries of the four windows (R25). -/
theorem windowAt_entry (i : Nat) :
    (i < Config.valDepth → windowAt (0x1000 + 2 * i) = .val i) ∧ (i < Config.resDepth → windowAt (0x2000 + 2 * i) = .res i) ∧
      (i < Config.rxWindow → windowAt (0x3000 + 2 * i) = .rxb i) ∧ (i < Config.txMax → windowAt (0x4000 + 2 * i) = .txb i) := by
  have hdiv : ∀ base, (base + 2 * i - base) / 2 = i := fun base => by omega
  have here : ∀ base n, i < n → base ≤ base + 2 * i ∧ (base + 2 * i - base) / 2 < n := fun base n hi =>
    ⟨by omega, by rwa [hdiv]⟩
  have noVal : ∀ a, 0x2000 ≤ a → ¬ (0x1000 ≤ a ∧ (a - 0x1000) / 2 < Config.valDepth) := fun a _ => by
    unfold Config.valDepth; omega
  have noRes : ∀ a, 0x3000 ≤ a → ¬ (0x2000 ≤ a ∧ (a - 0x2000) / 2 < Config.resDepth) := fun a _ => by
    unfold Config.resDepth; omega
  have noRxb : ∀ a, 0x4000 ≤ a → ¬ (0x3000 ≤ a ∧ (a - 0x3000) / 2 < Config.rxWindow) := fun a _ => by
    unfold Config.rxWindow; omega
  unfold windowAt
  refine ⟨fun hi => ?_, fun hi => ?_, fun hi => ?_, fun hi => ?_⟩
  · rw [if_pos (here _ _ hi), hdiv]
  · rw [if_neg (noVal _ (by omega)), if_pos (here _ _ hi), hdiv]
  · rw [if_neg (noVal _ (by omega)), if_neg (noRes _ (by omega)), if_pos (here _ _ hi), hdiv]
  · rw [if_neg (noVal _ (by omega)), if_neg (noRes _ (by omega)), if_neg (noRxb _ (by omega)), if_pos (here _ _ hi), hdiv]

/-- What an access to an entry of a window reaches. -/
theorem registerAt_entry (base i : Nat) (r : Register) (hb : base % 2 = 0) (hlo : 0x1000 ≤ base) (hi : base + 2 * i < 65536)
    (hw : windowAt (base + 2 * i) = r) :
    isAligned (BitVec.ofNat 16 (base + 2 * i)) 2 = true ∧ registerAt (BitVec.ofNat 16 (base + 2 * i)) = r := by
  obtain ⟨hn, ha⟩ := window_offset base i hb hi
  exact ⟨ha, by rw [registerAt_window _ (by omega), hn, hw]⟩

/-- A read of a byte window returns some byte with bits [15:8] = 0, written or drawn (spec/20_memory.md R67; log 16). -/
theorem hostRead_byteWindow (s : State) (off : Half) (r : Register) (ha : isAligned off 2 = true) (hr : registerAt off = r)
    (hbyte : ∃ i, r = .rxb i ∨ r = .txb i) :
    ∃ (b : Byte) (k : Nat), takeEvent (.hostRead off 2) s = .next { s with hostData := some (0#8 ++ b), draws := k } := by
  cases hread : readRegister s r with
  | some v =>
    have hv : ∃ b, v = byteRegister b := by
      obtain ⟨i, rfl | rfl⟩ := hbyte <;> obtain ⟨b, -, hb⟩ := Option.map_eq_some_iff.1 hread <;> exact ⟨b, hb.symm⟩
    obtain ⟨b, rfl⟩ := hv
    exact ⟨b, s.draws, byteRegister_eq b ▸ hostRead_value s off r _ ha hr hread⟩
  | none =>
    refine ⟨(Config.draw s.draws off.toNat).setWidth 8, s.draws + 1, ?_⟩
    have hdrawn : drawnRead s off 2 = byteRegister ((Config.draw s.draws off.toNat).setWidth 8) := by
      obtain ⟨i, rfl | rfl⟩ := hbyte <;> simp only [drawnRead, ha, hr]
    have hnone : readHost s off 2 = none := by rw [readHost, if_pos ha, hr, hread]
    simp only [takeEvent, hostRead, hnone, hdrawn, byteRegister_eq]

/-- Settles O42: the entry of each window is where the map of R25 puts it. -/
theorem windowsReadTheirArrays : Obligations.WindowsReadTheirArrays := by
  intro s i
  obtain ⟨hval, hres, hrxb, htxb⟩ := windowAt_entry i
  refine ⟨fun v hi hv => ?_, fun v hi hok hq hv => ?_, fun b hi hb => ?_, fun b hi hb => ?_, ?_⟩
  · obtain ⟨ha, hr⟩ := registerAt_entry 0x1000 i _ rfl (by decide) (by omega) (hval hi)
    exact hostRead_value s _ _ v ha hr hv
  · obtain ⟨ha, hr⟩ := registerAt_entry 0x2000 i _ rfl (by decide) (by omega) (hres hi)
    exact hostRead_value s _ _ v ha hr (by simp [readRegister, hok, hq, hv])
  · obtain ⟨ha, hr⟩ := registerAt_entry 0x3000 i _ rfl (by decide) (by omega) (hrxb hi)
    exact hostRead_value s _ _ _ ha hr (by simp [readRegister, hb, byteRegister_eq])
  · obtain ⟨ha, hr⟩ := registerAt_entry 0x4000 i _ rfl (by decide) (by omega) (htxb hi)
    exact hostRead_value s _ _ _ ha hr (by simp [readRegister, hb, byteRegister_eq])
  · rintro base (⟨rfl, hi⟩ | ⟨rfl, hi⟩)
    · obtain ⟨ha, hr⟩ := registerAt_entry 0x3000 i _ rfl (by decide) (by omega) (hrxb hi)
      exact hostRead_byteWindow s _ _ ha hr ⟨i, .inl rfl⟩
    · obtain ⟨ha, hr⟩ := registerAt_entry 0x4000 i _ rfl (by decide) (by omega) (htxb hi)
      exact hostRead_byteWindow s _ _ ha hr ⟨i, .inr rfl⟩

/-- Settles O46: the write of the VAL memory, at the entry's offset. -/
theorem valWriteStoresOneEntry : Obligations.ValWriteStoresOneEntry := by
  intro s i v hi hwf
  obtain ⟨ha, hr⟩ := registerAt_entry 0x1000 i _ rfl (by decide) (by omega) ((windowAt_entry i).1 hi)
  exact ⟨s.val.write i v, takeEvent_hostWrite s _ v _ ha hr nofun, Memory.write_wf s.val i v hwf hi,
    Memory.read_write_same s.val i v, fun k hk => Memory.read_write_other s.val i k v hk⟩

end Sys2Proof.Machine
end

section
/-! Rules of the whole machine: what a CTRL write, a Core turn and every other event can write. -/

namespace Sys2Proof.Machine

/-! ### START, a CTRL write, a Core turn -/

/-- START writes neither REQ, VAL, RES nor LINE_TX. -/
theorem issue_keeps (r : Request) (s : State) :
    (issue r s).req = s.req ∧ (issue r s).val = s.val ∧ (issue r s).res = s.res ∧ (issue r s).lineTx = s.lineTx := by
  rcases issue_cases r s with ⟨-, h⟩ | ⟨-, -, h⟩ | ⟨-, -, h⟩ <;> rw [h] <;> exact ⟨rfl, rfl, rfl, rfl⟩

/-- While busy, START sets OVERRUN and changes nothing else (spec/46_master_api.md R252). -/
theorem issue_busy (r : Request) (s : State) (hb : s.phase.busy = true) : issue r s = { s with overrun := true } := by
  rw [issue, if_pos hb]

/-- START sets OVERRUN in a busy phase, and never clears it (spec/10_state.md R48). -/
theorem issue_overrun (r : Request) (s : State) : (issue r s).overrun = (s.overrun || s.phase.busy) := by
  rcases issue_cases r s with ⟨hb, h⟩ | ⟨hb, -, h⟩ | ⟨hb, -, h⟩ <;> simp [h, hb]

/-- START clears the flags and EXC_CODE, or leaves them alone where it is refused for a busy phase. -/
theorem issue_clears (r : Request) (s : State) :
    ((issue r s).excCode = 0#8 ∨ (issue r s).excCode = s.excCode) ∧
      ((issue r s).resValid = false ∨ (issue r s).resValid = s.resValid) ∧
      ((issue r s).confirmed = false ∨ (issue r s).confirmed = s.confirmed) ∧
      ((issue r s).rxovf = false ∨ (issue r s).rxovf = s.rxovf) := by
  rcases issue_cases r s with ⟨-, h⟩ | ⟨-, -, h⟩ | ⟨-, -, h⟩ <;> rw [h] <;> simp

/-- START writes CRC only with the frame it builds (spec/10_state.md R34). -/
theorem issue_crc (r : Request) (s : State) : (issue r s).crc = s.crc ∨
    (issue r s).phase = .sending ∧ (issue r s).crc = crc16 (crcBody (issue r s).txb) := by
  rcases issue_cases r s with ⟨-, h⟩ | ⟨-, -, h⟩ | ⟨-, -, h⟩ <;> rw [h] <;> simp

/-- A CTRL write is the START of bit 0, if it is 1, on the state `b` that the other two bits leave (spec/46_master_api.md R264):
they write OVERRUN, and in AWAITING what ABORT writes. -/
theorem ctrlWrite_start (v : Half) (s t : State) (h : runActions (ctrlActions v) s = .next t) :
    ∃ b, b = { s with overrun := b.overrun, phase := b.phase, code := b.code, rxb := b.rxb, lineRxq := b.lineRxq } ∧
      b.overrun = (s.overrun && !v.getLsbD 2) ∧
      b.phase = (if v.getLsbD 1 = true ∧ s.phase = .awaiting then .failed else s.phase) ∧
      (v.getLsbD 0 = true ∧ t = issue b.req b ∨ v.getLsbD 0 = false ∧ t = b) := by
  obtain ⟨a, b, ha, hb, ht⟩ := ctrlWrite_cases v s t h
  have hao : a = { s with overrun := s.overrun && !v.getLsbD 2 } := by
    rw [ha]
    cases v.getLsbD 2 <;> simp
  have hstart : v.getLsbD 0 = true ∧ t = issue b.req b ∨ v.getLsbD 0 = false ∧ t = b := by
    split at ht
    next h0 => exact .inl ⟨h0, ht⟩
    next h0 => exact .inr ⟨Bool.eq_false_iff.2 h0, ht⟩
  rw [hao] at hb
  refine ⟨b, ?_, ?_, ?_, hstart⟩ <;> rw [hb] <;> split <;> rfl

/-- The state that START finds in a CTRL write is busy only if the one before the write was. -/
theorem busy_of_ctrlWrite (v : Half) (s b : State)
    (h : b.phase = (if v.getLsbD 1 = true ∧ s.phase = .awaiting then .failed else s.phase)) (hb : b.phase.busy = true) :
    s.phase.busy = true := by
  rw [h] at hb
  split at hb
  · cases hb
  · exact hb

/-- A CTRL write leaves REQ, VAL, RES and LINE_TX. -/
theorem ctrlWrite_keeps (v : Half) (s t : State) (h : runActions (ctrlActions v) s = .next t) :
    t.req = s.req ∧ t.val = s.val ∧ t.res = s.res ∧ t.lineTx = s.lineTx := by
  obtain ⟨b, hb, -, -, ht⟩ := ctrlWrite_start v s t h
  have hkeep : b.req = s.req ∧ b.val = s.val ∧ b.res = s.res ∧ b.lineTx = s.lineTx := by
    rw [hb]; exact ⟨rfl, rfl, rfl, rfl⟩
  rcases ht with ⟨-, rfl⟩ | ⟨-, rfl⟩
  · obtain ⟨hreq, hval, hres, htx⟩ := issue_keeps b.req b
    rw [hreq, hval, hres, htx]
    exact hkeep
  · exact hkeep

/-- Outside VALIDATING a Core turn is SEND, POLL or nothing, and leaves CRC, EXC_CODE, RES and its flags (spec/42_transport.md R162,
R163). -/
theorem coreTurn_keeps_results (s t : State) (h : coreTurn s = .next t) (hph : s.phase ≠ .validating) :
    t.crc = s.crc ∧ t.excCode = s.excCode ∧ t.res = s.res ∧ t.resValid = s.resValid ∧ t.confirmed = s.confirmed := by
  rcases coreTurn_cases s t h with ⟨-, rfl⟩ | ⟨-, rfl⟩ | ⟨-, rfl⟩ | ⟨hv, -⟩
  · exact ⟨rfl, rfl, rfl, rfl, rfl⟩
  · exact ⟨rfl, rfl, rfl, rfl, rfl⟩
  · rw [poll_frame]; exact ⟨rfl, rfl, rfl, rfl, rfl⟩
  · exact absurd hv hph

/-- A Core turn leaves the request, the active request, VAL and OVERRUN. -/
theorem coreTurn_keeps (s t : State) (h : coreTurn s = .next t) :
    t.req = s.req ∧ t.val = s.val ∧ t.act = s.act ∧ t.overrun = s.overrun := by
  rcases coreTurn_cases s t h with ⟨-, rfl⟩ | ⟨-, rfl⟩ | ⟨-, rfl⟩ | ⟨hv, -⟩
  · exact ⟨rfl, rfl, rfl, rfl⟩
  · exact ⟨rfl, rfl, rfl, rfl⟩
  · rw [poll_frame]; exact ⟨rfl, rfl, rfl, rfl⟩
  · obtain ⟨hovr, -, -, hreq, hact, hval, -⟩ := validate_keeps s t hv h
    exact ⟨hreq, hval, hact, hovr⟩

/-- Only a CTRL write, a Core turn and a reset write more of the core than REQ, VAL and LINE_RXQ. -/
theorem takeEvent_writers (e : Event) (s t : State) (h : takeEvent e s = .next t) :
    (∃ v, (∀ k, e.setsCtrlBit k = v.getLsbD k) ∧ runActions (ctrlActions v) s = .next t) ∨
    (e = .core ∧ coreTurn s = .next t) ∨ (e = .reset ∧ t = resetCore s) ∨
    (t = { s with req := t.req, val := t.val, lineRxq := t.lineRxq, hostData := t.hostData, draws := t.draws, inbox := t.inbox }) := by
  rcases takeEvent_cases e s t h with ⟨v, -, hk, hv⟩ | ⟨_, _, _, -, -, q, m, rfl⟩ | ⟨_, _, d, k, -, rfl⟩ | ⟨d, -, rfl⟩ | hc | hr |
    ⟨-, d, k, l, rfl⟩
  · exact .inl ⟨v, hk, hv⟩
  · exact .inr (.inr (.inr rfl))
  · exact .inr (.inr (.inr rfl))
  · exact .inr (.inr (.inr rfl))
  · exact .inr (.inl hc)
  · exact .inr (.inr (.inl hr))
  · exact .inr (.inr (.inr rfl))

/-! ### The rules -/

/-- A flag that keeps its value is neither set nor cleared. -/
theorem flag_unchanged {a b : Bool} {p q : Prop} (h : b = a) : (a = false → b = true → p) ∧ (a = true → b = false → q) := by
  subst h
  cases b <;> simp

/-- Settles O15: START sets OVERRUN while busy, bit 2 of CTRL and reset clear it, and no other event writes it. -/
theorem overrunIsStickyUntilCleared : Obligations.OverrunIsStickyUntilCleared := by
  refine ⟨rfl, fun s hb => congrArg _ (issue_busy s.req s hb), fun s => rfl, fun s t e h => ?_⟩
  rcases takeEvent_writers e s t h with ⟨v, hk, hv⟩ | ⟨-, hc⟩ | ⟨rfl, rfl⟩ | hp
  · obtain ⟨b, -, hovr, hph, ht⟩ := ctrlWrite_start v s t hv
    have hbusy := busy_of_ctrlWrite v s b hph
    rw [hk, hk]
    rcases ht with ⟨h0, rfl⟩ | ⟨-, rfl⟩
    · rw [issue_overrun, hovr]
      refine ⟨fun hs ht => ⟨hbusy (by simpa [hs] using ht), h0⟩, fun hs ht => .inr ?_⟩
      rw [hs, Bool.true_and, Bool.or_eq_false_iff] at ht
      simpa using ht.1
    · rw [hovr]
      refine ⟨fun hs ht => by simp [hs] at ht, fun hs ht => .inr ?_⟩
      simpa [hs] using ht
  · obtain ⟨-, -, -, hovr⟩ := coreTurn_keeps s t hc
    exact flag_unchanged hovr
  · simp
  · exact flag_unchanged (by rw [hp])

/-- Settles O49: of all the steps only SEND writes LINE_TX. -/
theorem onlySendTransmits : Obligations.OnlySendTransmits := by
  intro s t e h hne
  rcases takeEvent_writers e s t h with ⟨v, -, hv⟩ | ⟨rfl, hc⟩ | ⟨rfl, -⟩ | hp
  · obtain ⟨-, -, -, htx⟩ := ctrlWrite_keeps v s t hv
    exact .inl htx
  · rcases coreTurn_cases s t hc with ⟨-, rfl⟩ | ⟨hph, rfl⟩ | ⟨-, rfl⟩ | ⟨hph, -⟩
    · exact .inl rfl
    · exact .inr ⟨rfl, hph, rfl⟩
    · rw [poll_frame]; exact .inl rfl
    · obtain ⟨-, -, -, -, -, -, -, -, -, htx, -⟩ := validate_keeps s t hph hc
      exact .inl htx
  · exact absurd rfl hne
  · exact .inl (by rw [hp])

/-- A Host write at an offset outside the request registers leaves REQ, and one outside the entries of VAL leaves VAL
(spec/10_state.md R25). -/
theorem hostWrite_outside (off : Half) (width : Nat) (v : Half) (s t : State) (h : hostWrite off width v s = .next t) :
    (off.toNat < 0x0010 ∨ 0x0018 < off.toNat → t.req = s.req) ∧ (off.toNat < 0x1000 ∨ 0x1FEE < off.toNat → t.val = s.val) := by
  unfold hostWrite at h
  split at h
  next ha =>
    split at h
    next =>
      obtain ⟨hreq, hval, -⟩ := ctrlWrite_keeps v s t h
      exact ⟨fun _ => hreq, fun _ => hval⟩
    next =>
      cases h
      obtain ⟨hreq, hval⟩ := writeRegister_keeps v s (registerAt off)
      refine ⟨fun ho => hreq fun hr => ?_, fun ho => hval fun i hi => ?_⟩
      · have := registerAt_request_range off hr
        omega
      · have := registerAt_val_range off i ((aligned_iff off width).1 ha).2 hi
        omega
  next => cases h; exact ⟨fun _ => rfl, fun _ => rfl⟩

/-- ACT after a CTRL write: without bit 0 it is unchanged, and so it is in a busy phase that the write does not abort. -/
theorem ctrlWrite_act (v : Half) (s t : State) (h : runActions (ctrlActions v) s = .next t) :
    (v.getLsbD 0 = false → t.act = s.act) ∧
      (s.phase.busy = true → v.getLsbD 1 = false ∨ s.phase ≠ .awaiting → t.act = s.act) := by
  obtain ⟨b, hb, -, hph, ht⟩ := ctrlWrite_start v s t h
  have hact : b.act = s.act := by rw [hb]
  rcases ht with ⟨h0, rfl⟩ | ⟨-, rfl⟩
  · refine ⟨fun h0' => absurd (h0.symm.trans h0') nofun, fun hbusy h1 => ?_⟩
    have noAbort : ¬ (v.getLsbD 1 = true ∧ s.phase = .awaiting) := by
      rintro ⟨hv1, hpa⟩
      rcases h1 with h1 | h1
      · exact absurd (hv1.symm.trans h1) nofun
      · exact h1 hpa
    rw [if_neg noAbort] at hph
    rw [issue_busy b.req b (hph ▸ hbusy)]
    exact hact
  · exact ⟨fun _ => hact, fun _ _ => hact⟩

/-- Settles O51: writes of REQ and VAL by the map of R25, and of ACT by an accepted START. -/
theorem requestChangesOnlyByHost : Obligations.RequestChangesOnlyByHost := by
  intro s t e h hne
  have hctrl : e.isCtrlWrite = true → t.req = s.req ∧ t.val = s.val := fun he => by
    rcases takeEvent_cases e s t h with ⟨v, -, -, hv⟩ | ⟨_, _, _, -, hn, -⟩ | ⟨_, _, _, _, rfl, -⟩ | ⟨_, rfl, -⟩ | ⟨rfl, -⟩ |
      ⟨rfl, -⟩ | ⟨rfl, -⟩
    · obtain ⟨hreq, hval, -⟩ := ctrlWrite_keeps v s t hv
      exact ⟨hreq, hval⟩
    · simp [hn] at he
    all_goals cases he
  have hact : (e.setsCtrlBit 0 = false → t.act = s.act) ∧
      (s.phase.busy = true → e.setsCtrlBit 1 = false ∨ s.phase ≠ .awaiting → t.act = s.act) := by
    rcases takeEvent_writers e s t h with ⟨v, hk, hv⟩ | ⟨-, hc⟩ | ⟨rfl, -⟩ | hp
    · rw [hk, hk]
      exact ctrlWrite_act v s t hv
    · obtain ⟨-, -, hact, -⟩ := coreTurn_keeps s t hc
      exact ⟨fun _ => hact, fun _ _ => hact⟩
    · exact absurd rfl hne
    · have hact : t.act = s.act := by rw [hp]
      exact ⟨fun _ => hact, fun _ _ => hact⟩
  refine ⟨fun hn => ?_, fun off width v he => ?_, hctrl, hact⟩
  · cases e with
    | hostWrite off width v => exact absurd rfl (hn off width v)
    | hostRead off width => cases h; rw [hostRead_frame]; exact ⟨rfl, rfl⟩
    | hostWait => cases h; rw [hostWait_frame]; exact ⟨rfl, rfl⟩
    | deliver d => cases h; exact ⟨rfl, rfl⟩
    | core =>
      obtain ⟨hreq, hval, -⟩ := coreTurn_keeps s t h
      exact ⟨hreq, hval⟩
    | reset => exact absurd rfl hne
  · subst he
    exact hostWrite_outside off width v s t h

/-- RXOVF after a POLL: 1 if it was, or if more bytes came than RXB has room for (spec/10_state.md R49). -/
theorem poll_rxovf (s : State) :
    (poll s).rxovf = (s.rxovf || decide (s.params.rxCapacity - s.rxb.length < s.lineRxq.length)) := by
  rw [poll_frame]; rfl

/-- RXOVF after a Core turn. -/
theorem coreTurn_rxovf (s t : State) (h : coreTurn s = .next t) :
    t.rxovf = s.rxovf ∨ (s.phase = .sending ∧ t.rxovf = false) ∨
      (s.phase = .awaiting ∧ s.params.rxCapacity < s.rxb.length + s.lineRxq.length ∧ t.rxovf = true) := by
  rcases coreTurn_cases s t h with ⟨-, rfl⟩ | ⟨hph, rfl⟩ | ⟨hph, rfl⟩ | ⟨hph, -⟩
  · exact .inl rfl
  · exact .inr (.inl ⟨hph, rfl⟩)
  · rw [poll_rxovf]
    by_cases hfull : s.params.rxCapacity - s.rxb.length < s.lineRxq.length
    · exact .inr (.inr ⟨hph, by omega, by simp [hfull]⟩)
    · exact .inl (by simp [hfull])
  · obtain ⟨-, hovf, -⟩ := validate_keeps s t hph h
    exact .inl hovf

/-- Settles O52: START, SEND and reset clear RXOVF, a POLL that drops bytes sets it, and no other event writes it. -/
theorem rxovfTellsDroppedBytes : Obligations.RxovfTellsDroppedBytes := by
  refine ⟨rfl, fun s hb => ⟨issue s.req s, rfl, ?_⟩, fun s hph => ⟨send s, coreTurn_sending s hph, rfl⟩, fun s t e h => ?_⟩
  · rcases issue_cases s.req s with ⟨hb', -⟩ | ⟨-, -, he⟩ | ⟨-, -, he⟩
    · simp [hb] at hb'
    · rw [he]; rfl
    · rw [he]; rfl
  have drops : e = .core → s.phase = .awaiting → s.rxb.length ≤ s.params.rxCapacity →
      s.params.rxCapacity < s.rxb.length + s.lineRxq.length → t.rxovf = true := by
    rintro rfl hph hroom hmore
    cases h.symm.trans (coreTurn_awaiting s hph)
    simp only [poll_rxovf, Bool.or_eq_true, decide_eq_true_eq]
    omega
  rw [← and_assoc]
  refine ⟨?_, drops⟩
  rcases takeEvent_writers e s t h with ⟨v, hk, hv⟩ | ⟨rfl, hc⟩ | ⟨rfl, rfl⟩ | hp
  · obtain ⟨b, hb, -, -, ht⟩ := ctrlWrite_start v s t hv
    have hovf : b.rxovf = s.rxovf := by rw [hb]
    rcases ht with ⟨h0, rfl⟩ | ⟨-, rfl⟩
    · refine ⟨fun hs ht => ?_, fun _ _ => .inr (.inl ((hk 0).trans h0))⟩
      obtain ⟨-, -, -, hclear | hclear⟩ := issue_clears b.req b
      · simp [hclear] at ht
      · simp [hclear, hovf, hs] at ht
    · exact flag_unchanged hovf
  · rcases coreTurn_rxovf s t hc with hsame | ⟨hph, ht⟩ | ⟨hph, hmore, ht⟩
    · exact flag_unchanged hsame
    · exact ⟨by simp [ht], fun _ _ => .inr (.inr ⟨rfl, hph⟩)⟩
    · exact ⟨fun _ _ => ⟨rfl, hph, hmore⟩, by simp [ht]⟩
  · simp
  · exact flag_unchanged (by rw [hp])

/-- Settles O53: the writers of CRC are a START that builds a frame, VALIDATE on two bytes or more, and reset. -/
theorem crcHoldsLastComputation : Obligations.CrcHoldsLastComputation := by
  intro s t e h hne
  rcases takeEvent_writers e s t h with ⟨v, hk, hv⟩ | ⟨rfl, hc⟩ | ⟨rfl, rfl⟩ | hp
  · obtain ⟨b, hb, -, -, ht⟩ := ctrlWrite_start v s t hv
    have hcrc : b.crc = s.crc := by rw [hb]
    rcases ht with ⟨h0, rfl⟩ | ⟨-, rfl⟩
    · exact .inl ⟨(hk 0).trans h0, (issue_crc b.req b).resolve_left fun he => hne (he.trans hcrc)⟩
    · exact absurd hcrc hne
  · by_cases hph : s.phase = .validating
    · rcases validate_outcomes s t hph hc with ⟨c, rfl, -⟩ | ⟨h2, ho⟩
      · exact absurd rfl hne
      · refine .inr (.inl ⟨rfl, hph, h2, ?_⟩)
        rcases ho with ⟨c, -, rfl⟩ | ⟨-, -, rfl⟩ | ⟨-, ws, rfl⟩ | ⟨-, rfl | rfl⟩ | ⟨-, -, c, ph, -, rfl⟩ <;> rfl
    · obtain ⟨hcrc, -⟩ := coreTurn_keeps_results s t hc hph
      exact absurd hcrc hne
  · exact .inr (.inr ⟨rfl, rfl⟩)
  · exact absurd (by rw [hp]) hne

/-- The results that a step may leave without VALIDATE: EXC_CODE 0 or as before, RES as before, RES_VALID and CONFIRMED 0 or as
before. -/
def ResultsOnlyCleared (s t : State) : Prop :=
  (t.excCode = 0#8 ∨ t.excCode = s.excCode) ∧ t.res = s.res ∧ (t.resValid = false ∨ t.resValid = s.resValid) ∧
    (t.confirmed = false ∨ t.confirmed = s.confirmed)

/-- A CTRL write clears results at most. -/
theorem ctrlWrite_clears (v : Half) (s t : State) (h : runActions (ctrlActions v) s = .next t) : ResultsOnlyCleared s t := by
  obtain ⟨-, -, hres, -⟩ := ctrlWrite_keeps v s t h
  obtain ⟨b, hb, -, -, ht⟩ := ctrlWrite_start v s t h
  have hkeep : b.excCode = s.excCode ∧ b.resValid = s.resValid ∧ b.confirmed = s.confirmed := by
    rw [hb]; exact ⟨rfl, rfl, rfl⟩
  obtain ⟨hexc, hrv, hconf⟩ := hkeep
  rcases ht with ⟨-, rfl⟩ | ⟨-, rfl⟩
  · obtain ⟨iexc, irv, iconf, -⟩ := issue_clears b.req b
    exact ⟨hexc ▸ iexc, hres, hrv ▸ irv, hconf ▸ iconf⟩
  · exact ⟨.inr hexc, hres, .inr hrv, .inr hconf⟩

/-- Every event but VALIDATE and reset clears results at most. -/
theorem takeEvent_clears (e : Event) (s t : State) (h : takeEvent e s = .next t) (hne : e ≠ .reset)
    (hv : ¬ (e = .core ∧ s.phase = .validating)) : ResultsOnlyCleared s t := by
  rcases takeEvent_writers e s t h with ⟨v, -, hw⟩ | ⟨rfl, hc⟩ | ⟨rfl, -⟩ | hp
  · exact ctrlWrite_clears v s t hw
  · obtain ⟨-, hexc, hres, hrv, hconf⟩ := coreTurn_keeps_results s t hc fun hph => hv ⟨rfl, hph⟩
    exact ⟨.inr hexc, hres, .inr hrv, .inr hconf⟩
  · exact absurd rfl hne
  · rw [hp]
    exact ⟨.inr rfl, rfl, .inr rfl, .inr rfl⟩

/-- Where it exists, the exception byte is byte 2 of RXB (spec/45_validator.md R229). -/
theorem exceptionByte_eq (s : State) (h : 3 ≤ s.rxb.length) : s.rxb[2]? = some (exceptionByte s) := by
  rw [exceptionByte, List.getElem?_eq_getElem (show 2 < s.rxb.length by omega)]
  rfl

/-- The results that VALIDATE sets, each with the outcome it reports (spec/46_master_api.md R265). -/
theorem validate_results (s t : State) (hph : s.phase = .validating) (h : coreTurn s = .next t) :
    (t.excCode ≠ s.excCode → t.phase = .failed ∧ t.code = .slaveException ∧ t.excCode = exceptionByte s) ∧
    (t.res ≠ s.res ∨ (t.resValid = true ∧ s.resValid = false) →
      isRead s.act.func = true ∧ t.phase = .completed ∧ t.code = .ok ∧ t.resValid = true) ∧
    (t.confirmed = true → s.confirmed = false → isWrite s.act.func = true ∧ t.phase = .completed ∧ t.code = .ok) := by
  rcases validate_outcomes s t hph h with
    ⟨c, rfl, -⟩ | ⟨-, ⟨c, -, rfl⟩ | ⟨-, -, rfl⟩ | ⟨hrd, ws, rfl⟩ | ⟨hwr, rfl | rfl⟩ | ⟨-, -, c, ph, -, rfl⟩⟩
  · exact ⟨by simp, by simp, by simp +contextual⟩
  · exact ⟨by simp, by simp, by simp +contextual⟩
  · exact ⟨fun _ => ⟨rfl, rfl, rfl⟩, by simp, by simp +contextual⟩
  · exact ⟨by simp, fun _ => ⟨hrd, rfl, rfl, rfl⟩, by simp +contextual⟩
  · exact ⟨by simp, by simp, fun _ _ => ⟨hwr, rfl, rfl⟩⟩
  · exact ⟨by simp, by simp, nofun⟩
  · exact ⟨by simp, by simp, by simp +contextual⟩

/-- Settles O54: VALIDATE sets results with the outcome they report, and every other event clears them at most. -/
theorem resultsComeOnlyFromValidate : Obligations.ResultsComeOnlyFromValidate := by
  intro s t e h hne
  by_cases hv : e = .core ∧ s.phase = .validating
  · obtain ⟨rfl, hph⟩ := hv
    obtain ⟨hexc, hres, hconf⟩ := validate_results s t hph h
    refine ⟨fun hch _ => ?_, fun hch => ⟨rfl, hph, hres hch⟩, fun ht hs => ⟨rfl, hph, hconf ht hs⟩⟩
    obtain ⟨htp, htc, hbyte⟩ := hexc hch
    exact ⟨rfl, hph, htp, htc, fun hlen => hbyte ▸ exceptionByte_eq s hlen⟩
  · obtain ⟨hexc, hres, hrv, hconf⟩ := takeEvent_clears e s t h hne hv
    refine ⟨fun hch h0 => (hexc.elim h0 hch).elim, ?_, fun ht hs => ?_⟩
    · rintro (hch | ⟨ht, hs⟩)
      · exact absurd hres hch
      · rcases hrv with hrv | hrv <;> simp_all
    · rcases hconf with hconf | hconf <;> simp_all

end Sys2Proof.Machine
end

section
/-! Host accesses that the core ignores, and the results of a done phase. -/

namespace Sys2Proof.Machine

/-! ### Ignored accesses -/

/-- A write of a register outside REQ and VAL is ignored (spec/20_memory.md R63, R64). -/
theorem writeRegister_eq_self (v : Half) (s : State) (r : Register) (hreq : r ∉ requestRegisters) (hval : ∀ i, r ≠ .val i) :
    writeRegister v s r = s := by
  obtain ⟨keepsReq, keepsVal⟩ := writeRegister_keeps v s r
  rw [writeRegister_frame, keepsReq hreq, keepsVal hval]

/-- A 16-bit write at an even offset that is neither CTRL's, a request register's nor an entry's of VAL is ignored
(spec/20_memory.md R63, R64). -/
theorem takeEvent_hostWrite_outside (s : State) (off v : Half) (he : off.toNat % 2 = 0) (hctrl : 0 < off.toNat)
    (hreq : off.toNat < 0x0010 ∨ 0x0018 < off.toNat) (hval : off.toNat < 0x1000 ∨ 0x1FEE < off.toNat) :
    takeEvent (.hostWrite off 2 v) s = .next s := by
  have noCtrl : registerAt off ≠ .ctrl := fun h => by
    simp [(registerAt_eq_ctrl off).1 h] at hctrl
  have noReq : registerAt off ∉ requestRegisters := fun h => by
    have := registerAt_request_range off h
    omega
  have noVal : ∀ i, registerAt off ≠ .val i := fun i h => by
    have := registerAt_val_range off i he h
    omega
  rw [takeEvent_hostWrite s off v _ ((aligned_iff off 2).2 ⟨rfl, he⟩) rfl noCtrl, writeRegister_eq_self v s _ noReq noVal]

/-- The numbers between the single registers and the windows of the map of R25, and behind its last window. -/
abbrev UnlistedOffset (a : Nat) : Prop :=
  0x000C < a ∧ a < 0x0010 ∨ 0x0018 < a ∧ a < 0x1000 ∨ 0x1FF0 ≤ a ∧ a < 0x2000 ∨ 0x2FA0 ≤ a ∧ a < 0x3000 ∨ 0x4210 ≤ a

/-- No window of the map covers an unlisted offset. -/
theorem windowAt_unlisted (a : Nat) (h : UnlistedOffset a) : windowAt a = .reserved := by
  have noVal : ¬ (0x1000 ≤ a ∧ (a - 0x1000) / 2 < Config.valDepth) := by unfold Config.valDepth; omega
  have noRes : ¬ (0x2000 ≤ a ∧ (a - 0x2000) / 2 < Config.resDepth) := by unfold Config.resDepth; omega
  have noRxb : ¬ (0x3000 ≤ a ∧ (a - 0x3000) / 2 < Config.rxWindow) := by unfold Config.rxWindow; omega
  have noTxb : ¬ (0x4000 ≤ a ∧ (a - 0x4000) / 2 < Config.txMax) := by unfold Config.txMax; omega
  rw [windowAt, if_neg noVal, if_neg noRes, if_neg noRxb, if_neg noTxb]

/-- An unlisted offset reaches no register (spec/20_memory.md R63). -/
theorem registerAt_unlisted (off : Half) (h : UnlistedOffset off.toNat) : registerAt off = .reserved := by
  have listed : ∀ p ∈ scalarMap, ¬ UnlistedOffset p.1.toNat := by decide
  rcases registerAt_cases off with hm | hw
  · exact absurd h (listed _ hm)
  · rw [hw, windowAt_unlisted _ h]

/-- Settles O43: the offsets lie outside CTRL, the request registers and VAL, and the reserved ones outside the map of R25. -/
theorem reservedAndReadOnlyIgnoreWrites : Obligations.ReservedAndReadOnlyIgnoreWrites := by
  intro s off v he
  refine ⟨fun h => ⟨?_, ?_⟩, fun h => ?_⟩
  · exact hostRead_value s off .reserved _ ((aligned_iff off 2).2 ⟨rfl, he⟩) (registerAt_unlisted off h) rfl
  · exact takeEvent_hostWrite_outside s off v he (by omega) (by omega) (by omega)
  · exact takeEvent_hostWrite_outside s off v he (by omega) (by omega) (by omega)

/-- A write that the core does not honour is ignored (spec/20_memory.md R62). -/
theorem takeEvent_hostWrite_misaligned (s : State) (off : Half) (width : Nat) (v : Half) (h : ¬ isAligned off width = true) :
    takeEvent (.hostWrite off width v) s = .next s := by
  rw [takeEvent, hostWrite, if_neg h]

/-- Settles O44: such a write is ignored, and a read of any kind keeps the state of the core (O39). -/
theorem misalignedAccessIsIgnored : Obligations.MisalignedAccessIsIgnored := by
  intro s off width v h
  refine ⟨takeEvent_hostWrite_misaligned s off width v ?_, hostReadHasNoSideEffect s off width⟩
  rw [aligned_iff]
  omega

/-! ### The results of a done phase -/

/-- In a done phase a CTRL write without START writes OVERRUN alone: ABORT acts in AWAITING only (spec/46_master_api.md R262,
R263). -/
theorem ctrlWrite_done (v : Half) (s t : State) (hd : s.phase.done = true) (h0 : v.getLsbD 0 = false)
    (h : runActions (ctrlActions v) s = .next t) : t = { s with overrun := t.overrun } := by
  obtain ⟨a, b, ha, hb, ht⟩ := ctrlWrite_cases v s t h
  have noAbort : ¬ (v.getLsbD 1 = true ∧ s.phase = .awaiting) := by
    rintro ⟨-, hp⟩
    simp [hp, Phase.done] at hd
  rw [if_neg (Bool.eq_false_iff.1 h0), hb, if_neg noAbort, ha] at ht
  rw [ht]
  split <;> rfl

/-- In a done phase the Core has no enabled step (spec/46_master_api.md R251). -/
theorem coreTurn_done (s : State) (hd : s.phase.done = true) : coreTurn s = .next s :=
  coreTurn_rest s (by cases hp : s.phase <;> simp [hp, Phase.done, Phase.busy] at hd ⊢)

/-- What an event other than START and reset can write in a done phase: what is the Host's or the Line's, and OVERRUN. -/
theorem takeEvent_done (e : Event) (s t : State) (hd : s.phase.done = true) (h : takeEvent e s = .next t) (hne : e ≠ .reset)
    (h0 : e.setsCtrlBit 0 = false) :
    t = { s with overrun := t.overrun, req := t.req, val := t.val, lineRxq := t.lineRxq, hostData := t.hostData,
                 draws := t.draws, inbox := t.inbox } := by
  rcases takeEvent_writers e s t h with ⟨v, hk, hv⟩ | ⟨-, hc⟩ | ⟨hr, -⟩ | hp
  · rw [ctrlWrite_done v s t hd ((hk 0).symm.trans h0) hv]
  · cases hc.symm.trans (coreTurn_done s hd)
    rfl
  · exact absurd hr hne
  · rw [hp]

/-- Settles O48: none of the results is among what such an event writes. -/
theorem resultsStableWhileDone : Obligations.ResultsStableWhileDone := by
  intro s t e hd h hne h0
  rw [takeEvent_done e s t hd h hne h0]
  exact ⟨rfl, rfl, rfl, rfl, rfl, rfl, rfl, rfl, rfl, rfl⟩

end Sys2Proof.Machine
end

section
/-! The encoding of the three selector spaces and the command lines: decoder and encoder undo each other, a FUNC outside the
eight codes, and the runs of the assembly lines. -/

namespace Sys2Proof.Machine

/-! ### Decoder and encoder -/

/-- Decoding undoes encoding, row by row of the opcode table. -/
theorem decode_encode : ∀ i : Instr, Laws.RoundTrip.Statement i
  | .rdCoils o => Laws.RoundTrip.rdCoils o
  | .rdDiscrete o => Laws.RoundTrip.rdDiscrete o
  | .rdHolding o => Laws.RoundTrip.rdHolding o
  | .rdInput o => Laws.RoundTrip.rdInput o
  | .wrCoil o => Laws.RoundTrip.wrCoil o
  | .wrReg o => Laws.RoundTrip.wrReg o
  | .wrCoils o => Laws.RoundTrip.wrCoils o
  | .wrRegs o => Laws.RoundTrip.wrRegs o
  | .start => Laws.RoundTrip.start
  | .abort => Laws.RoundTrip.abort
  | .clrOverrun => Laws.RoundTrip.clrOverrun
  | .rspExc slave fn => Laws.RoundTrip.rspExc slave fn
  | .rspRead01 slave bc => Laws.RoundTrip.rspRead01 slave bc
  | .rspRead02 slave bc => Laws.RoundTrip.rspRead02 slave bc
  | .rspRead03 slave bc => Laws.RoundTrip.rspRead03 slave bc
  | .rspRead04 slave bc => Laws.RoundTrip.rspRead04 slave bc
  | .rspEcho slave fn => Laws.RoundTrip.rspEcho slave fn

/-- Settles O6: the round trip of each of the 17 rows. -/
theorem decodeOfEncodeIsInstruction : Obligations.DecodeOfEncodeIsInstruction := decode_encode

/-- A request is the encoding of the command it selects (spec/30_encoding.md R93). -/
theorem encode_of_decodeRequest (r : Request) (i : Instr) (h : decodeRequest r = .ok i) :
    encode i = .request r ∧ i.wf = true := by
  have joined : ∀ f, r.func = f → Selector.request (r.operands.request f) = .request r :=
    fun f hf => congrArg _ (hf ▸ request_operands r)
  rcases decodeRequest_cases r i h with ⟨hf, rfl⟩ | ⟨hf, rfl⟩ | ⟨hf, rfl⟩ | ⟨hf, rfl⟩ | ⟨hf, rfl⟩ | ⟨hf, rfl⟩ |
    ⟨hf, rfl⟩ | ⟨hf, rfl⟩ <;> exact ⟨joined _ hf, rfl⟩

/-- A function byte whose exception flag is known, joined again (spec/30_encoding.md R81). -/
theorem functionByte_of_bit7 (e : Bool) (fc : Byte) (h7 : fc.getLsbD 7 = e) : functionByte e (functionNumber fc) = fc :=
  h7 ▸ functionByte_functionNumber fc

/-- Where bit 7 is 0, the function number is the whole function byte (spec/30_encoding.md R81). -/
theorem functionNumber_toNat (fc : Byte) (h7 : fc.getLsbD 7 = false) : (functionNumber fc).toNat = fc.toNat := by
  have h := Laws.functionByte_toNat false (functionNumber fc)
  rw [functionByte_of_bit7 false fc h7] at h
  exact h.symm

/-- A response begins with the encoding of its class (spec/30_encoding.md R95). -/
theorem encode_of_decodeResponse (bs : List Byte) (i : Instr) (rest : List Byte) (h : decodeResponse bs = .ok (i, rest)) :
    ∃ hdr, encode i = .response hdr ∧ bs = hdr ++ rest ∧ i.wf = true := by
  rcases decodeResponse_cases bs i rest h with ⟨sl, fc, rfl, h7, rfl⟩ | ⟨sl, bc, rfl, rfl⟩ | ⟨sl, bc, rfl, rfl⟩ |
    ⟨sl, bc, rfl, rfl⟩ | ⟨sl, bc, rfl, rfl⟩ | ⟨sl, fc, rfl, h7, hr, rfl⟩
  · exact ⟨[sl, fc], by rw [encode, functionByte_of_bit7 true fc h7], rfl, rfl⟩
  on_goal 5 =>
    have hwf : (Instr.rspEcho sl (functionNumber fc)).wf = true := by
      rw [Instr.wf, functionNumber_toNat fc h7, ← Bool.decide_and, decide_eq_false hr]
      rfl
    exact ⟨[sl, fc], by rw [encode, functionByte_of_bit7 false fc h7], rfl, hwf⟩
  all_goals exact ⟨[sl, _, bc], rfl, rfl, rfl⟩

/-- Settles O7: the requests, and the responses with what follows the header. -/
theorem encodeOfDecodedIsSelector : Obligations.EncodeOfDecodedIsSelector :=
  ⟨encode_of_decodeRequest, encode_of_decodeResponse⟩

/-- The instructions encoded as a request are the commands, which the request selects again. -/
theorem decodeRequest_of_encode (i : Instr) (r : Request) (h : encode i = .request r) : decodeRequest r = .ok i := by
  have hwf : i.wf = true := by
    cases i with
    | rspEcho => simp [encode] at h
    | _ => rfl
  exact (decode_request_singleton r i).1 (h ▸ decode_encode i hwf)

/-! ### A FUNC outside the eight codes -/

/-- A FUNC outside the eight codes fails the check of START (spec/30_encoding.md R94). -/
theorem argsOk_unlisted (r : Request) (val : Nat → Half)
    (h : r.func ∉ ([0x01#8, 0x02#8, 0x03#8, 0x04#8, 0x05#8, 0x06#8, 0x0F#8, 0x10#8] : List Byte)) :
    argsOk r val = false :=
  Bool.eq_false_iff.2 fun ha => h (boundsOk_func r (argsOk_bounds r val ha))

/-- A START that fails the check ends in FAILED with TXB empty, and nothing is emitted (spec/46_master_api.md R253). -/
theorem issue_refused (r : Request) (s : State) (hb : s.phase.busy = false) (ha : argsOk r (valView s) = false) :
    issue r s = fail .invalidArgument { clearForStart r s with txb := [] } := by
  simp [issue, hb, ha]

/-- Settles O9: START refuses the request; the eight codes have bit 7 = 0 and are not 0; and the count of the others. -/
theorem illegalFunctionEndsAtStart : Obligations.IllegalFunctionEndsAtStart := by
  refine ⟨fun s hb hf => ?_, fun f hf hm => ?_, by decide +kernel⟩
  · have hs := issue_refused s.req s hb (argsOk_unlisted s.req _ hf)
    exact ⟨_, congrArg Host.Outcome.next hs, rfl, rfl, rfl, rfl⟩
  · have codes : ∀ f ∈ ([0x01#8, 0x02#8, 0x03#8, 0x04#8, 0x05#8, 0x06#8, 0x0F#8, 0x10#8] : List Byte),
        f ≠ 0x00#8 ∧ f.getLsbD 7 = false := by decide
    obtain ⟨h0, h7⟩ := codes f hm
    exact hf.elim h0 (Bool.eq_false_iff.1 h7)

/-! ### The staging writes -/

/-- VAL after the Host has written the values `vs` to its entries from `k` on. -/
def Memory.stage (m : Memory) (k : Nat) : List Half → Memory
  | [] => m
  | v :: vs => Memory.stage (m.write k v) (k + 1) vs

/-- Staging keeps VAL canonical. -/
theorem Memory.stage_wf (vs : List Half) (m : Memory) (k : Nat) (h : m.wf) (hk : k + vs.length ≤ Config.valDepth) :
    (m.stage k vs).wf := by
  induction vs generalizing m k with
  | nil => exact h
  | cons v vs ih =>
    rw [List.length_cons] at hk
    exact ih _ _ (Memory.write_wf m k v h (by omega)) (by omega)

/-- Staging writes no entry below the first. -/
theorem Memory.read_stage_below (vs : List Half) (m : Memory) (k j : Nat) (h : j < k) : (m.stage k vs).read j = m.read j := by
  induction vs generalizing m k with
  | nil => rfl
  | cons v vs ih => rw [stage, ih _ _ (by omega), Memory.read_write_other m k j v (by omega)]

/-- What VAL reads at and above the first entry staged: the values, and behind them what it read before. -/
theorem Memory.read_stage (vs : List Half) (m : Memory) (k j : Nat) :
    (m.stage k vs).read (k + j) = if j < vs.length then vs[j]? else m.read (k + j) := by
  induction vs generalizing m k j with
  | nil => rfl
  | cons v vs ih =>
    cases j with
    | zero => simp [stage, Memory.read_stage_below, Memory.read_write_same]
    | succ j =>
      have hj : k + (j + 1) = k + 1 + j := by omega
      simp only [stage, hj, ih, List.length_cons, Nat.add_lt_add_iff_right, List.getElem?_cons_succ]
      rw [Memory.read_write_other m k (k + 1 + j) v (by omega)]

/-- A run that starts with a 16-bit Host write to a register other than CTRL. -/
theorem run_hostWrite (k : Nat) (off v : Half) (r : Register) (s : State) (es : List Event) (ha : isAligned off 2 = true)
    (hr : registerAt off = r) (hc : r ≠ .ctrl) :
    run (k + 1) { s with inbox := .hostWrite off 2 v :: es } = run k { writeRegister v s r with inbox := es } := by
  rw [run_event k _ s _ es (takeEvent_hostWrite _ off v r ha hr hc)]
  cases r <;> rfl

/-- A run that starts with the staging writes. -/
theorem run_stageFrom (vs : List Half) (k n : Nat) (s : State) (es : List Event) (hk : k + vs.length ≤ Config.valDepth) :
    run (vs.length + n) { s with inbox := stageFrom k vs ++ es } =
      run n { s with val := s.val.stage k vs, inbox := es } := by
  induction vs generalizing k s with
  | nil => rw [List.length_nil, Nat.zero_add]; rfl
  | cons v vs ih =>
    simp only [List.length_cons, Config.valDepth] at hk ih
    obtain ⟨ha, hr⟩ := registerAt_entry 0x1000 k _ rfl (by decide) (by omega)
      ((windowAt_entry k).1 (by simp only [Config.valDepth]; omega))
    rw [List.length_cons, Nat.succ_add, stageFrom, List.cons_append, wr,
      run_hostWrite _ _ v _ s _ ha hr nofun]
    exact ih (k + 1) { s with val := s.val.write k v } (by omega)

/-! ### The request writes and the START -/

/-- A byte register holds the byte written to it (spec/10_state.md R35, R36). -/
theorem setWidth_byteRegister (b : Byte) : (byteRegister b).setWidth 8 = b := by
  simp [byteRegister]

/-- Bit 0 of FLAGS is SIGNED (spec/10_state.md R39). -/
theorem flags_bit0 (b : Bool) : ((BitVec.ofBool b).setWidth 16).getLsbD 0 = b := by
  cases b <;> rfl

/-- The six writes of a request put it in REQ and run START (spec/30_encoding.md R99). -/
theorem run_requestWrites (r : Request) (s : State) (rest : List Event) :
    run 6 { s with inbox := requestWrites r ++ rest } = exec .start { s with req := r, inbox := rest } := by
  have filled : Request.mk ((byteRegister r.slave).setWidth 8) ((byteRegister r.func).setWidth 8) r.addr r.qty
      (((BitVec.ofBool r.signed).setWidth 16).getLsbD 0) = r := by
    rw [setWidth_byteRegister, setWidth_byteRegister, flags_bit0]
  obtain ⟨t, ht⟩ := exec_next .start { s with req := r, inbox := rest }
  simp only [requestWrites, wr, List.cons_append, List.nil_append]
  rw [run_hostWrite 5 _ _ .reqSlave s _ rfl rfl nofun, run_hostWrite 4 _ _ .reqFunc _ _ rfl rfl nofun,
    run_hostWrite 3 _ _ .reqAddr _ _ rfl rfl nofun, run_hostWrite 2 _ _ .reqQtyval _ _ rfl rfl nofun,
    run_hostWrite 1 _ _ .reqFlags _ _ rfl rfl nofun, ht]
  refine run_event 0 _ _ t rest ?_
  rw [takeEvent_ctrlWrite, ← ht, ← runActions_singleton]
  simp only [writeRegister, filled]
  rfl

/-! ### Command lines -/

/-- The accesses of a command with its values (spec/30_encoding.md R99). -/
theorem expand_command (i : Instr) (r : Request) (vals : List Half) (h : encode i = .request r) :
    expand i vals = stageFrom 0 vals ++ requestWrites r := by
  rw [expand, h]

/-- The writes of a command line with its values run the command on the state they leave. -/
theorem run_expand (i : Instr) (r : Request) (vals : List Half) (s : State) (rest : List Event) (hb : s.phase.busy = false)
    (hi : encode i = .request r) (hv : vals.length ≤ Config.valDepth) :
    run (vals.length + 6) { s with inbox := expand i vals ++ rest } =
      exec i { s with req := r, val := s.val.stage 0 vals, inbox := rest } := by
  rw [expand_command i r vals hi, List.append_assoc, run_stageFrom vals 0 6 s _ (by omega),
    run_requestWrites r { s with val := s.val.stage 0 vals } rest]
  exact exec_start_eq_command _ i hb (decodeRequest_of_encode i r hi)

/-- A register word is written as `w mod 65536` (spec/30_encoding.md R99). -/
theorem ofInt_eq_ofNat_mod (w : Int) : BitVec.ofInt 16 w = BitVec.ofNat 16 (w % 65536).toNat := by
  apply BitVec.eq_of_toNat_eq
  simp only [BitVec.toNat_ofInt, BitVec.toNat_ofNat]
  omega

/-- What a line of the command `command` expands to, where FUNC of its encoding is `func` (spec/30_encoding.md R98, R99). -/
theorem expand_line (command : Operands → Instr) (func : Byte) (hc : ∀ o, encode (command o) = .request (o.request func))
    (slave addr x : Nat) (signed : Bool) (vals : List Half) (hs : slave < 256) :
    expand (command (lineOperands slave addr x signed)) vals =
      (vals.zipIdx.map fun p => .hostWrite (BitVec.ofNat 16 (0x1000 + 2 * p.2)) 2 p.1) ++
      [.hostWrite 0x0010#16 2 (BitVec.ofNat 16 slave), .hostWrite 0x0012#16 2 (0#8 ++ func),
       .hostWrite 0x0014#16 2 (BitVec.ofNat 16 addr), .hostWrite 0x0016#16 2 (BitVec.ofNat 16 x),
       .hostWrite 0x0018#16 2 (if signed then 1#16 else 0#16), .hostWrite 0x0000#16 2 0x0001#16] := by
  have hslave : byteRegister (BitVec.ofNat 8 slave) = BitVec.ofNat 16 slave := by
    apply BitVec.eq_of_toNat_eq
    simp only [byteRegister, BitVec.toNat_setWidth, BitVec.toNat_ofNat]
    omega
  have hflags : (BitVec.ofBool signed).setWidth 16 = if signed then 1#16 else 0#16 := by
    cases signed <;> rfl
  rw [expand_command _ _ vals (hc _), stageFrom_eq]
  simp only [requestWrites, Operands.request, lineOperands, wr, hslave, hflags, byteRegister_eq func]

/-- Settles O55: the runs of a command line without and with values, and the expansion of each line. -/
theorem commandLineRunsCommand : Obligations.CommandLineRunsCommand := by
  refine ⟨fun s i r rest hb hi => run_expand i r [] s rest hb hi (Nat.zero_le _),
    fun s i r vals rest hb hi hv hwf => ⟨s.val.stage 0 vals, Memory.stage_wf vals s.val 0 hwf (by simpa using hv), fun k => ?_,
      run_expand i r vals s rest hb hi hv⟩,
    fun slave addr x signed on bits words hs => ⟨?_, ?_, ?_, ?_, ?_, ?_, ?_, ?_⟩, rfl, rfl, rfl⟩
  · simpa using Memory.read_stage vals s.val 0 k
  · exact expand_line .rdCoils 0x01#8 (fun _ => rfl) slave addr x false [] hs
  · exact expand_line .rdDiscrete 0x02#8 (fun _ => rfl) slave addr x false [] hs
  · exact expand_line .rdHolding 0x03#8 (fun _ => rfl) slave addr x signed [] hs
  · exact expand_line .rdInput 0x04#8 (fun _ => rfl) slave addr x signed [] hs
  · exact expand_line .wrCoil 0x05#8 (fun _ => rfl) slave addr (if on then 1 else 0) false [] hs
  · exact expand_line .wrReg 0x06#8 (fun _ => rfl) slave addr x false [] hs
  · exact expand_line .wrCoils 0x0F#8 (fun _ => rfl) slave addr bits.length false (bits.map coilWord) hs
  · simp only [← ofInt_eq_ofNat_mod]
    exact expand_line .wrRegs 0x10#8 (fun _ => rfl) slave addr words.length false (words.map (BitVec.ofInt 16)) hs

end Sys2Proof.Machine
end

section
/-! The CRC-16 generator (spec/40_crc.md): the 8 shifts of an update are linear and injective, so the table gives the same
update, and only the CRC itself, low byte first, takes the CRC register to zero. -/

namespace Sys2Proof.Machine

/-- CRC_UPDATE as its 8 shifts (R122). -/
theorem crcUpdate_eq_iterate (c : Half) (b : Byte) : crcUpdate c b = crcShift^[8] (c ^^^ b.setWidth 16) := rfl

theorem crcShift_eq_xor (c : Half) : crcShift c = c >>> 1 ^^^ if c.getLsbD 0 then 0xA001#16 else 0#16 := by
  unfold crcShift
  split
  · rfl
  · exact BitVec.xor_zero.symm

theorem crcShift_xor (c d : Half) : crcShift (c ^^^ d) = crcShift c ^^^ crcShift d := by
  have hbit : (if (c ^^^ d).getLsbD 0 then 0xA001#16 else 0#16) =
      (if c.getLsbD 0 then 0xA001#16 else 0#16) ^^^ if d.getLsbD 0 then 0xA001#16 else 0#16 := by
    rw [BitVec.getLsbD_xor]
    cases c.getLsbD 0 <;> cases d.getLsbD 0 <;> rfl
  simp only [crcShift_eq_xor, hbit, BitVec.ushiftRight_xor_distrib]
  ac_rfl

theorem crcShift_iterate_xor (n : Nat) (c d : Half) :
    crcShift^[n] (c ^^^ d) = crcShift^[n] c ^^^ crcShift^[n] d := by
  induction n generalizing c d with
  | zero => rfl
  | succ n ih => rw [Function.iterate_succ_apply, crcShift_xor, ih]; rfl

/-- While the bits shifted out are 0, the shifts are a plain shift. -/
theorem crcShift_iterate_of_low_zero (n : Nat) (c : Half) (h : ∀ i < n, c.getLsbD i = false) : crcShift^[n] c = c >>> n := by
  induction n with
  | zero => simp
  | succ n ih =>
    have hbit : (c >>> n).getLsbD 0 = false := by
      rw [BitVec.getLsbD_ushiftRight]
      exact h n (Nat.lt_succ_self n)
    rw [Function.iterate_succ_apply', ih fun i hi => h i (by omega), crcShift, hbit, BitVec.shiftRight_add]
    rfl

/-- A shift loses nothing: bit 15 of the result is the bit shifted out, since 0xA001 has bit 15 = 1. -/
theorem crcShift_getLsbD_top (c : Half) : (crcShift c).getLsbD 15 = c.getLsbD 0 := by
  rw [crcShift_eq_xor]
  cases c.getLsbD 0 <;> simp

theorem crcShift_injective : Function.Injective crcShift := by
  intro c d h
  have h0 : c.getLsbD 0 = d.getLsbD 0 := by rw [← crcShift_getLsbD_top c, h, crcShift_getLsbD_top]
  rw [crcShift_eq_xor, crcShift_eq_xor, h0, BitVec.xor_left_inj] at h
  apply BitVec.eq_of_getLsbD_eq
  intro i _
  cases i with
  | zero => exact h0
  | succ j => simpa [Nat.add_comm] using congrArg (BitVec.getLsbD · j) h

/-- An update by one byte is reversible. -/
theorem crcUpdate_inj (c d : Half) (b : Byte) : crcUpdate c b = crcUpdate d b ↔ c = d := by
  rw [crcUpdate_eq_iterate, crcUpdate_eq_iterate, (crcShift_injective.iterate 8).eq_iff, BitVec.xor_left_inj]

theorem word16_getLsbD (hi lo : Byte) (i : Nat) :
    (word16 hi lo).getLsbD i = if i < 8 then lo.getLsbD i else hi.getLsbD (i - 8) := BitVec.getLsbD_append

theorem word16_eq_xor (hi lo : Byte) : word16 hi lo = word16 hi 0#8 ^^^ lo.setWidth 16 := by
  apply BitVec.eq_of_getLsbD_eq
  intro i hi16
  rw [BitVec.getLsbD_xor, word16_getLsbD, word16_getLsbD, BitVec.getLsbD_setWidth]
  by_cases h : i < 8
  · simp [h, hi16]
  · simp [h, BitVec.getLsbD_of_ge lo i (Nat.le_of_not_lt h)]

/-- The 8 shifts move a high byte down. -/
theorem crcShift_iterate_high (hi : Byte) : crcShift^[8] (word16 hi 0#8) = hi.setWidth 16 := by
  rw [crcShift_iterate_of_low_zero 8 _ fun i h => by simp [word16_getLsbD, h]]
  apply BitVec.eq_of_getLsbD_eq
  intro i hi16
  rw [BitVec.getLsbD_ushiftRight, word16_getLsbD, BitVec.getLsbD_setWidth]
  simp [hi16]

/-- The update by the low byte leaves the high byte. -/
theorem crcUpdate_word16 (hi lo : Byte) : crcUpdate (word16 hi lo) lo = hi.setWidth 16 := by
  rw [crcUpdate_eq_iterate, word16_eq_xor, BitVec.xor_assoc, BitVec.xor_self, BitVec.xor_zero, crcShift_iterate_high]

theorem crcUpdate_eq_zero_iff (c : Half) (b : Byte) : crcUpdate c b = 0#16 ↔ c = b.setWidth 16 := by
  have hb : crcUpdate (b.setWidth 16) b = 0#16 := by rw [crcUpdate_eq_iterate, BitVec.xor_self]; rfl
  rw [← hb, crcUpdate_inj]

theorem setWidth_highByte (v : Half) : (v.extractLsb' 8 8).setWidth 16 = v >>> 8 := by
  apply BitVec.eq_of_toNat_eq
  rw [BitVec.toNat_setWidth, BitVec.extractLsb'_toNat, BitVec.toNat_ushiftRight, Nat.shiftRight_eq_div_pow]
  have := v.isLt
  omega

theorem setWidth_lowByte (v : Half) : (v.extractLsb' 0 8).setWidth 16 = v &&& 0x00FF#16 := by
  apply BitVec.eq_of_toNat_eq
  rw [BitVec.toNat_and, BitVec.toNat_setWidth, BitVec.extractLsb'_toNat]
  exact (Nat.mod_eq_of_lt (by omega)).trans (Nat.and_two_pow_sub_one_eq_mod _ 8).symm

/-- Of the 8 shifts, only those of the low byte are more than a plain shift. -/
theorem crcShift_iterate_eq_split (v : Half) : crcShift^[8] v = v >>> 8 ^^^ crcShift^[8] (v &&& 0x00FF#16) := by
  calc crcShift^[8] v
    _ = crcShift^[8] (word16 (v.extractLsb' 8 8) 0#8 ^^^ (v.extractLsb' 0 8).setWidth 16) := by
      rw [← word16_eq_xor, word16_extract]
    _ = v >>> 8 ^^^ crcShift^[8] (v &&& 0x00FF#16) := by
      rw [crcShift_iterate_xor, crcShift_iterate_high, setWidth_highByte, setWidth_lowByte]

/-- R123 with CRC_UPDATE of the table's index in place of the entry: `b` is a byte, so it does not reach the high byte. -/
theorem crcUpdate_eq_shift_xor (c : Half) (b : Byte) :
    crcUpdate c b = c >>> 8 ^^^ crcUpdate ((c ^^^ b.setWidth 16) &&& 0x00FF#16) 0x00#8 := by
  have hb : b.setWidth 16 >>> 8 = 0#16 := by
    apply BitVec.eq_of_toNat_eq
    rw [BitVec.toNat_ushiftRight, BitVec.toNat_setWidth, Nat.shiftRight_eq_div_pow]
    exact Nat.div_eq_of_lt (by omega)
  rw [crcUpdate_eq_iterate, crcShift_iterate_eq_split, BitVec.ushiftRight_xor_distrib, hb, BitVec.xor_zero,
    crcUpdate_eq_iterate, BitVec.setWidth_zero, BitVec.xor_zero]

/-- The printed table, entry by entry, is what CRC_UPDATE computes (R123). -/
theorem crcTable_eq_map : crcTable = (List.range 256).map fun i => crcUpdate (BitVec.ofNat 16 i) 0x00#8 := by decide +kernel

theorem crcTable_getD (i : Nat) (h : i < 256) : crcTable.getD i 0#16 = crcUpdate (BitVec.ofNat 16 i) 0x00#8 := by
  simp [crcTable_eq_map, h]

/-- Settles O21: an update is the plain shift of the high byte and the update of the low byte, which the table holds. -/
theorem tableUpdateEqualsBitwise : Obligations.TableUpdateEqualsBitwise := by
  refine ⟨by simp [crcTable_eq_map], crcTable_getD, fun c b => ?_⟩
  have hlow : ((c ^^^ b.setWidth 16) &&& 0x00FF#16).toNat < 256 := by
    rw [BitVec.toNat_and]
    exact Nat.lt_succ_of_le Nat.and_le_right
  rw [crcUpdateByTable, crcTable_getD _ hlow, BitVec.ofNat_toNat, BitVec.setWidth_eq, ← crcUpdate_eq_shift_xor]

theorem word16_eq_iff_le16 (c : Half) (a b : Byte) : c = word16 b a ↔ [a, b] = le16 c := by
  constructor
  · rintro rfl
    rw [le16, word16, BitVec.extractLsb'_append_eq_right, BitVec.extractLsb'_append_eq_left]
  · intro h
    obtain ⟨rfl, rfl⟩ : a = _ ∧ b = _ := by simpa [le16] using h
    exact (word16_extract c).symm

theorem crc16_append_pair_eq_zero (bs : List Byte) (a b : Byte) : crc16 (bs ++ [a, b]) = 0#16 ↔ crc16 bs = word16 b a := by
  calc crc16 (bs ++ [a, b]) = 0#16
    _ ↔ crcUpdate (crcUpdate (crc16 bs) a) b = 0#16 := by rw [crc16, crcFrom_append]; rfl
    _ ↔ crcUpdate (crc16 bs) a = b.setWidth 16 := crcUpdate_eq_zero_iff _ _
    _ ↔ crcUpdate (crc16 bs) a = crcUpdate (word16 b a) a := by rw [crcUpdate_word16]
    _ ↔ crc16 bs = word16 b a := crcUpdate_inj _ _ _

theorem crcMatches_append_pair (bs : List Byte) (a b : Byte) : crcMatches (bs ++ [a, b]) = true ↔ crc16 bs = word16 b a := by
  simp [crcMatches, crcBody, trailer]

theorem exists_append_pair (r : List Byte) (h : 2 ≤ r.length) : ∃ bs a b, r = bs ++ [a, b] := by
  obtain ⟨a, b, hab⟩ := List.length_eq_two.mp (show (r.drop (r.length - 2)).length = 2 by simp; omega)
  exact ⟨r.take (r.length - 2), a, b, by rw [← hab, List.take_append_drop]⟩

/-- Settles O22: two updates reach zero exactly from the CRC that the pair spells, low byte first. -/
theorem crcResidueIsZero : Obligations.CrcResidueIsZero := by
  have hpair : ∀ (bs : List Byte) (a b : Byte), crc16 (bs ++ [a, b]) = 0#16 ↔ [a, b] = le16 (crc16 bs) := fun bs a b =>
    (crc16_append_pair_eq_zero bs a b).trans (word16_eq_iff_le16 _ a b)
  refine ⟨fun bs => (hpair bs _ _).mpr rfl, hpair, fun r hr => ?_⟩
  obtain ⟨bs, a, b, rfl⟩ := exists_append_pair r hr
  rw [crc16_append_pair_eq_zero, crcMatches_append_pair]

end Sys2Proof.Machine
end

section
/-! The Codec (spec/41_codec.md): what each decoder answers, its round trip with the encoder, and the reads of VALIDATE that end
in it. -/

namespace Sys2Proof.Machine

/-! ## Registers -/

theorem word16_toNat (hi lo : Byte) : (word16 hi lo).toNat = hi.toNat * 256 + lo.toNat := by
  rw [word16, BitVec.toNat_append, ← Nat.shiftLeft_add_eq_or_of_lt lo.isLt, Nat.shiftLeft_eq]

/-- R145 as a number, `p[2i] * 256 + p[2i+1]`. -/
theorem word16_eq_ofNat (hi lo : Byte) : word16 hi lo = BitVec.ofNat 16 (hi.toNat * 256 + lo.toNat) := by
  rw [← word16_toNat, BitVec.ofNat_toNat, BitVec.setWidth_eq]

theorem decodeRegisters_eq_some (p : List Byte) (n : Nat) (h : p.length = 2 * n) :
    decodeRegisters p n =
      some ((List.range n).map fun k => word16 (p.getD (2 * k) 0#8) (p.getD (2 * k + 1) 0#8)) :=
  if_neg (by omega)

theorem decodeRegisters_eq_none (p : List Byte) (n : Nat) (h : p.length ≠ 2 * n) : decodeRegisters p n = none :=
  if_pos (by omega)

/-- The two bytes of register `i`, joined again. -/
theorem word16_encodeRegisters (ws : List Half) (i : Nat) (h : i < ws.length) :
    word16 ((encodeRegisters ws).getD (2 * i) 0#8) ((encodeRegisters ws).getD (2 * i + 1) 0#8) = ws[i] := by
  induction ws generalizing i with
  | nil => simp at h
  | cons w ws ih =>
    cases i with
    | zero => exact word16_extract w
    | succ i => exact ih i (Nat.lt_of_succ_lt_succ h)

theorem decodeRegisters_encodeRegisters (ws : List Half) : decodeRegisters (encodeRegisters ws) ws.length = some ws := by
  rw [decodeRegisters_eq_some _ _ (encodeRegisters_length ws)]
  congr 1
  refine List.ext_getElem (by simp) fun i _ hi => ?_
  rw [List.getElem_map, List.getElem_range, word16_encodeRegisters ws i hi]

/-- Settles O24: the decoder joins the two bytes of each register again, and a 16-bit word holds both ranges of R147. -/
theorem registerRoundTrip : Obligations.RegisterRoundTrip := by
  refine ⟨decodeRegisters_encodeRegisters, fun x hlo hhi => ?_, fun x hlo hhi => ?_⟩
  · exact BitVec.toInt_ofInt_eq_self (by decide) hlo (by omega)
  · show ((BitVec.ofInt 16 x).toNat : Int) = x
    rw [BitVec.toNat_ofInt]
    omega

/-! ## Coils -/

theorem unpackCoils_eq_some (p : List Byte) (n : Nat) (h : (n + 7) / 8 ≤ p.length) :
    unpackCoils p n = some ((List.range n).map fun k => coilWord ((p.getD (k / 8) 0#8).getLsbD (k % 8))) :=
  if_neg (Nat.not_lt_of_le h)

theorem unpackCoils_eq_none (p : List Byte) (n : Nat) (h : p.length < (n + 7) / 8) : unpackCoils p n = none := if_pos h

/-- Bit `k` of byte `i` is value `8i + k`, and 0 beyond the end (R143). -/
theorem packCoils_getLsbD (bs : List Bool) (i k : Nat) (hi : i < ceil8 bs.length) (hk : k < 8) :
    ((packCoils bs).getD i 0#8).getLsbD k = bs.getD (8 * i + k) false := by
  have hbyte : (packCoils bs).getD i 0#8 = packByte fun k => bs.getD (8 * i + k) false := by simp [packCoils, hi]
  rw [hbyte, packByte_bit _ k hk]

/-- Settles O26: every byte is packed from its own eight values, and `getD` past the end of the list is the padding. -/
theorem packedBitsLowestFirst : Obligations.PackedBitsLowestFirst := by
  refine fun bs => ⟨packCoils_length bs, fun i k hi hk => ?_⟩
  rw [packCoils_getLsbD bs i k hi hk]
  split
  · rfl
  next hend => exact List.getD_eq_default _ _ (Nat.le_of_not_lt hend)

/-- Settles O25: coil `j` is packed into bit `j mod 8` of byte `j div 8`, where the decoder reads it. -/
theorem coilRoundTrip : Obligations.CoilRoundTrip := by
  intro bs
  rw [unpackCoils_eq_some _ _ (packCoils_length bs).ge]
  congr 1
  refine List.ext_getElem (by simp) fun j _ hj => ?_
  have hlt : j < bs.length := by simpa using hj
  have hbyte : j / 8 < ceil8 bs.length := by unfold ceil8; omega
  rw [List.getElem_map, List.getElem_range, List.getElem_map, packCoils_getLsbD bs _ _ hbyte (Nat.mod_lt j (by decide)),
    Nat.div_add_mod, List.getD_eq_getElem _ _ hlt]
  rfl

/-! ## The reads of VALIDATE -/

/-- A buffer whose last two bytes are the CRC of the rest, low byte first, passes the CRC check (spec/40_crc.md R126). -/
theorem crcMatches_of_drop (r : List Byte) (h2 : 2 ≤ r.length) (h : r.drop (r.length - 2) = le16 (crc16 (crcBody r))) :
    crcMatches r = true := by
  obtain ⟨bs, a, b, rfl⟩ := exists_append_pair r h2
  rw [crcMatches_append_pair, word16_eq_iff_le16]
  simpa [crcBody] using h

/-- VALIDATE of a buffer that passes every check is its decoder (spec/45_validator.md R220). -/
theorem validate_passed (fin : List Byte → State → State) (s : State) (h2 : 2 ≤ s.rxb.length) (hcrc : crcMatches s.rxb = true)
    (hslave : s.rxb.getD 0 0#8 = s.act.slave) (hexc : s.rxb.getD 1 0#8 ≠ s.act.func ||| 0x80#8) :
    validate fin s = fin (payload (headerLength s.act.func) s.rxb) { s with crc := crc16 (crcBody s.rxb) } := by
  rcases validate_cases fin s with ⟨h, -⟩ | ⟨h, -⟩ | ⟨-, h, -⟩ | ⟨-, -, h, -⟩ | ⟨-, -, -, h, -⟩ | ⟨-, -, -, -, h⟩
  · omega
  · omega
  · simp [hcrc] at h
  · exact absurd hslave h
  · exact absurd h hexc
  · exact h

theorem commandStep_validating (r : Request) (fin : List Byte → State → State) (s : State) (hp : s.phase = .validating) :
    commandStep r fin s = validate fin s := by
  rw [commandStep, hp]

/-- A command in VALIDATING on a buffer that passes every check is its decoder, run on the payload. -/
theorem exec_passed (s : State) (i : Instr) (f : Byte) (hi : i.isCommand f = true) (hp : s.phase = .validating)
    (hf : s.act.func = f) (h2 : 2 ≤ s.rxb.length) (hcrc : s.rxb.drop (s.rxb.length - 2) = le16 (crc16 (crcBody s.rxb)))
    (hslave : s.rxb.getD 0 0#8 = s.act.slave) (hexc : s.rxb.getD 1 0#8 ≠ f ||| 0x80#8) :
    ∃ fin : List Byte → State → State,
      exec i s = .next (fin (payload (headerLength f) s.rxb) { s with crc := crc16 (crcBody s.rxb) }) ∧
      ((f = 0x01#8 ∨ f = 0x02#8) ∧ fin = finishCoils ∨ (f = 0x03#8 ∨ f = 0x04#8) ∧ fin = finishRegisters ∨
        (f = 0x05#8 ∨ f = 0x06#8 ∨ f = 0x0F#8 ∨ f = 0x10#8) ∧ fin = finishWrite) := by
  obtain ⟨o, fin, hex, hfin⟩ := command_exec i f hi
  refine ⟨fin, ?_, hfin⟩
  subst hf
  rw [hex, commandStep_validating _ _ _ hp, validate_passed fin s h2 (crcMatches_of_drop _ h2 hcrc) hslave hexc]

/-- The results of a read of `n` values are the first `n` entries of RES. -/
theorem writeResults_range (n : Nat) (g : Nat → Half) (res : List Half) :
    writeResults ((List.range n).map g) res = (List.range n).map g ++ res.drop n := by
  simp [writeResults]

/-- A buffer of up to 5 bytes has no payload behind the read header (spec/45_validator.md R225). -/
theorem read_payload_short (r : List Byte) (h : r.length ≤ 5) : ((r.take (r.length - 2)).drop 3).length = 0 := by
  rw [List.length_drop, List.length_take]
  omega

/-- Settles O35: RD_COILS and RD_DISCRETE end in the coil decoder, which needs `ceil8` of the count in payload bytes. -/
theorem coilReadDecodes : Obligations.CoilReadDecodes := by
  intro s i f hi hf hp ha h2 body c hcrc hslave hexc data n
  obtain ⟨fin, hex, hfin⟩ := exec_passed s i f hi hp ha h2 hcrc hslave hexc
  have hread : exec i s = .next (finishRead (unpackCoils data n) { s with crc := c }) := by
    have hdecoder : fin = finishCoils := by rcases hf with rfl | rfl <;> simpa using hfin
    have hheader : headerLength f = 3 := by rcases hf with rfl | rfl <;> rfl
    rw [hex, hheader, hdecoder]
    rfl
  have hfail : data.length < (n + 7) / 8 →
      exec i s = .next { s with crc := c, code := .decodeError, phase := .failed } := fun h => by
    rw [hread, unpackCoils_eq_none data n h]
    rfl
  refine ⟨fun h => ?_, hfail, fun h5 (h1 : 1 ≤ n) => hfail ?_⟩
  · rw [hread, unpackCoils_eq_some data n h, finishRead, writeResults_range]
    rfl
  · have hshort : data.length = 0 := read_payload_short s.rxb h5
    omega

/-- Settles O36: RD_HOLDING and RD_INPUT end in the register decoder, which needs exactly two payload bytes a register. -/
theorem registerReadDecodes : Obligations.RegisterReadDecodes := by
  intro s i f hi hf hp ha h2 body c hcrc hslave hexc data n
  obtain ⟨fin, hex, hfin⟩ := exec_passed s i f hi hp ha h2 hcrc hslave hexc
  have hread : exec i s = .next (finishRead (decodeRegisters data n) { s with crc := c }) := by
    have hdecoder : fin = finishRegisters := by rcases hf with rfl | rfl <;> simpa using hfin
    have hheader : headerLength f = 3 := by rcases hf with rfl | rfl <;> rfl
    rw [hex, hheader, hdecoder]
    rfl
  have hfail : data.length ≠ 2 * n →
      exec i s = .next { s with crc := c, code := .decodeError, phase := .failed } := fun h => by
    rw [hread, decodeRegisters_eq_none data n h]
    rfl
  refine ⟨fun h => ?_, hfail, fun h5 (h1 : 1 ≤ n) => hfail ?_⟩
  · simp only [hread, decodeRegisters_eq_some data n h, finishRead, writeResults_range, word16_eq_ofNat]
    rfl
  · have hshort : data.length = 0 := read_payload_short s.rxb h5
    omega

end Sys2Proof.Machine
end

section
/-! The Transport (spec/42_transport.md): the Line's delivery, and the two steps that move bytes between the core and the line. -/

namespace Sys2Proof.Machine

/-- On the line every command takes the same step, the Core's (spec/46_master_api.md R250; log entry 11). -/
theorem exec_command_onLine (s : State) (i : Instr) (f : Byte) (hi : i.isCommand f = true)
    (hp : s.phase = .sending ∨ s.phase = .awaiting) : exec i s = coreTurn s := by
  obtain ⟨o, fin, hex, -⟩ := command_exec i f hi
  rcases hp with hp | hp
  · rw [hex, coreTurn_sending s hp, commandStep, hp]
  · rw [hex, coreTurn_awaiting s hp, commandStep, hp]

/-- The phase in which a POLL leaves AWAITING (spec/42_transport.md R163). -/
theorem poll_phase (s : State) (hp : s.phase = .awaiting) :
    (poll s).phase =
      if isComplete (receive s).rxb = true ∨ (receive s).attempts.toNat = s.params.maxAttempts then .validating
      else .awaiting := by
  rcases closePoll_cases (isComplete (receive s).rxb) (receive s) with ⟨hend, he⟩ | ⟨hopen, hleft, he⟩
  · rw [poll, he]
    exact (if_pos hend).symm
  · rw [poll, he]
    exact hp.trans (if_neg (not_or.2 ⟨Bool.eq_false_iff.1 hopen, hleft⟩)).symm

/-- Settles O27: the Line's step is `deliver`, by definition the append. -/
theorem deliverAppends : Obligations.DeliverAppends := fun _ _ => rfl

/-- Settles O28: the Core's turn in SENDING is `send`, and the step of every command there is the Core's turn. -/
theorem sendFlushesAndEmits : Obligations.SendFlushesAndEmits := by
  intro s hp sent
  have hsend : coreTurn s = .next sent := coreTurn_sending s hp
  exact ⟨hsend, fun i f hi => (exec_command_onLine s i f hi (.inl hp)).trans hsend⟩

/-- Settles O29: the Core's turn in AWAITING is `poll`, the receipt and the phase it ends in, and the step of every command
there is the Core's turn. -/
theorem pollAppendsAndCounts : Obligations.PollAppendsAndCounts := by
  intro s hp room rxb' att' polled
  have hrxb : (receive s).rxb = rxb' := by
    rw [receive_rxb, List.take_eq_take_min, Nat.min_comm]
  have hovf : (receive s).rxovf = if room < s.lineRxq.length then true else s.rxovf := by
    rw [receive_rxovf]
    by_cases hfull : room < s.lineRxq.length
    · rw [if_pos hfull, decide_eq_true hfull, Bool.or_true]
    · rw [if_neg hfull, decide_eq_false hfull, Bool.or_false]
  have hpoll : poll s = polled := by
    calc poll s
      _ = { receive s with phase := (poll s).phase } := poll_frame s
      _ = { s with lineRxq := [], rxb := (receive s).rxb, rxovf := (receive s).rxovf, attempts := att',
                   phase := (poll s).phase } := rfl
      _ = polled := by rw [poll_phase s hp, hrxb, hovf]; rfl
  have hturn : coreTurn s = .next polled := by rw [coreTurn_awaiting s hp, hpoll]
  exact ⟨hturn, fun i f hi => (exec_command_onLine s i f hi (.inr hp)).trans hturn⟩

end Sys2Proof.Machine
end

section
/-! The Frame Builder (spec/43_frame_builder.md): the check of START as the bounds of the spec, the body of a request per function
code, and the frame and the state that an accepted START leaves. -/

namespace Sys2Proof.Machine

/-! ## The check of START -/

/-- The check accepts exactly what the table of spec/46_master_api.md R253 accepts. -/
theorem argsOk_iff (r : Request) (val : Nat → Half) :
    argsOk r val = true ↔
      (1 ≤ r.slave.toNat ∧ r.slave.toNat ≤ 247) ∧
      ((r.func = 0x01#8 ∨ r.func = 0x02#8) ∧ 1 ≤ r.qty.toNat ∧ r.qty.toNat ≤ 2000 ∨
       (r.func = 0x03#8 ∨ r.func = 0x04#8) ∧ 1 ≤ r.qty.toNat ∧ r.qty.toNat ≤ 125 ∨
       r.func = 0x05#8 ∧ (r.qty = 0x0000#16 ∨ r.qty = 0x0001#16) ∨
       r.func = 0x06#8 ∨
       r.func = 0x0F#8 ∧ r.qty.toNat ≤ 2040 ∧ (∀ i < r.qty.toNat, val i = 0x0000#16 ∨ val i = 0x0001#16) ∨
       r.func = 0x10#8 ∧ 1 ≤ r.qty.toNat ∧ r.qty.toNat ≤ 123) := by
  simp only [argsOk, boundsOk, coilsOk, Bool.and_eq_true, Bool.ite_eq_true_distrib, decide_eq_true_eq]
  by_cases hf : r.func ∈ ([0x01#8, 0x02#8, 0x03#8, 0x04#8, 0x05#8, 0x06#8, 0x0F#8, 0x10#8] : List Byte)
  · simp only [List.mem_cons, List.not_mem_nil, or_false] at hf
    rcases hf with hf | hf | hf | hf | hf | hf | hf | hf <;>
      simp [isCoilValue, hf, and_assoc]
  · simp only [List.mem_cons, List.not_mem_nil, or_false, not_or] at hf
    simp [hf]

/-! ## The body per function code -/

/-- The body of a read (R181). -/
theorem requestBody_read (r : Request) (val : Nat → Half) (h : isRead r.func = true) :
    requestBody r val = [r.slave, r.func] ++ be16 r.addr ++ be16 r.qty := by
  rw [requestBody, pdu, if_pos h]
  rfl

/-- The body of a single write: the value is `sent` (R182, R183). -/
theorem requestBody_single (r : Request) (val : Nat → Half) (h : r.func = 0x05#8 ∨ r.func = 0x06#8) :
    requestBody r val = [r.slave, r.func] ++ be16 r.addr ++ be16 (sent r) := by
  have hpdu : pdu r val = pduSingle r := by rcases h with h | h <;> simp [pdu, isRead, h]
  rw [requestBody, hpdu]
  rfl

/-- The body of write multiple coils (R185). -/
theorem requestBody_coils (r : Request) (val : Nat → Half) (h : r.func = 0x0F#8) :
    requestBody r val = [r.slave, r.func] ++ be16 r.addr ++ be16 r.qty ++
      [BitVec.ofNat 8 (ceil8 r.qty.toNat)] ++ coilData r.qty.toNat val := by
  have hpdu : pdu r val = pduCoils r val := by simp [pdu, isRead, h]
  rw [requestBody, hpdu]
  rfl

/-- The body of write multiple registers (R184). -/
theorem requestBody_registers (r : Request) (val : Nat → Half) (h : r.func = 0x10#8) :
    requestBody r val = [r.slave, r.func] ++ be16 r.addr ++ be16 r.qty ++
      [BitVec.ofNat 8 (2 * r.qty.toNat)] ++ registerData r.qty.toNat val := by
  have hpdu : pdu r val = pduRegisters r val := by simp [pdu, isRead, h]
  rw [requestBody, hpdu]
  rfl

/-! ## Values that the Host wrote to VAL -/

/-- A step sees a written entry of VAL as it was written (spec/10_state.md R41). -/
theorem valView_of_read (s : State) (i : Nat) (v : Half) (h : s.val.read i = some v) : valView s i = v := by
  rw [valView, h]
  rfl

/-- The first entries of VAL, where the Host wrote `ws` to them. -/
theorem map_valView_range (s : State) (ws : List Half) (h : ∀ i < ws.length, s.val.read i = ws[i]?) :
    (List.range ws.length).map (valView s) = ws := by
  refine List.ext_getElem (by simp) fun i _ hi => ?_
  rw [List.getElem_map, List.getElem_range]
  exact valView_of_read s i ws[i] ((h i hi).trans (List.getElem?_eq_getElem hi))

/-- The encoded registers of written values. -/
theorem registerData_of_written (s : State) (ws : List Half) (h : ∀ i < ws.length, s.val.read i = ws[i]?) :
    registerData ws.length (valView s) = ws.flatMap be16 := by
  rw [registerData, map_valView_range s ws h]
  rfl

theorem coilWord_eq_one (b : Bool) : (coilWord b == 0x0001#16) = b := by cases b <;> rfl

/-- The packed coils of written values. -/
theorem coilData_of_written (s : State) (bs : List Bool) (h : ∀ i < bs.length, s.val.read i = bs[i]?.map coilWord) :
    coilData bs.length (valView s) = packCoils bs := by
  have hview := map_valView_range s (bs.map coilWord) (by simpa using h)
  calc coilData bs.length (valView s)
    _ = packCoils (((List.range bs.length).map (valView s)).map (· == 0x0001#16)) := by rw [List.map_map]; rfl
    _ = packCoils ((bs.map coilWord).map (· == 0x0001#16)) := by rw [← hview, List.length_map]
    _ = packCoils bs := by simp [Function.comp_def, coilWord_eq_one]

/-- Written coil values pass the FC15 check. -/
theorem valView_of_written_coils (s : State) (bs : List Bool) (h : ∀ i < bs.length, s.val.read i = bs[i]?.map coilWord)
    (i : Nat) (hi : i < bs.length) : valView s i = 0x0000#16 ∨ valView s i = 0x0001#16 := by
  have hview : valView s i = coilWord bs[i] := valView_of_read s i _ (by rw [h i hi, List.getElem?_eq_getElem hi]; rfl)
  rw [hview]
  cases bs[i] <;> simp [coilWord]

/-! ## An accepted START -/

/-- What an accepted START of `r` leaves, where `body` is the body of its frame (R180; spec/46_master_api.md R252). -/
def started (r : Request) (body : List Byte) (s : State) : State :=
  { clearForStart r s with txb := body ++ le16 (crc16 body), crc := crc16 body, phase := .sending }

/-- A command from a phase that is not busy, on a request that passes the check, where `body` is the body of its frame. -/
theorem exec_accepted (i : Instr) (r : Request) (fin : List Byte → State → State) (s : State) (body : List Byte)
    (hi : exec i s = .next (commandStep r fin s)) (hb : s.phase.busy = false) (ha : argsOk r (valView s) = true)
    (hbody : requestBody r (valView s) = body) : exec i s = .next (started r body s) := by
  rw [hi, commandStep_rest r fin s hb, issue, hb, if_neg Bool.false_ne_true, if_pos ha, ← hbody]
  rfl

/-- Settles O16: each of the four reads passes the check, and its body is that of R181. -/
theorem readStartBuildsFrame : Obligations.ReadStartBuildsFrame := by
  intro s o hb hlo hhi hn startedRead
  have hstart (i : Instr) (f : Byte) (fin) (hi : exec i s = .next (commandStep (o.request f) fin s))
      (ha : argsOk (o.request f) (valView s) = true) (hr : isRead f = true) : exec i s = .next (startedRead f) :=
    exec_accepted i _ fin s _ hi hb ha (requestBody_read _ _ hr)
  refine ⟨fun hbits => ?_, fun hregs => ?_⟩
  · have hok (f : Byte) (hf : f = 0x01#8 ∨ f = 0x02#8) : argsOk (o.request f) (valView s) = true :=
      (argsOk_iff _ _).2 ⟨⟨hlo, hhi⟩, .inl ⟨hf, hn, hbits⟩⟩
    exact ⟨hstart (.rdCoils o) 0x01#8 finishCoils rfl (hok _ (.inl rfl)) rfl,
      hstart (.rdDiscrete o) 0x02#8 finishCoils rfl (hok _ (.inr rfl)) rfl⟩
  · have hok (f : Byte) (hf : f = 0x03#8 ∨ f = 0x04#8) : argsOk (o.request f) (valView s) = true :=
      (argsOk_iff _ _).2 ⟨⟨hlo, hhi⟩, .inr (.inl ⟨hf, hn, hregs⟩)⟩
    exact ⟨hstart (.rdHolding o) 0x03#8 finishRegisters rfl (hok _ (.inl rfl)) rfl,
      hstart (.rdInput o) 0x04#8 finishRegisters rfl (hok _ (.inr rfl)) rfl⟩

/-- Settles O17: both values of WR_COIL and every value of WR_REG pass the check, and `sent` is the wire value of R182 and
R183. -/
theorem singleWriteStartBuildsFrame : Obligations.SingleWriteStartBuildsFrame := by
  intro s o hb hlo hhi startedWrite
  have hstart (i : Instr) (f : Byte) (wire : Half) (hi : exec i s = .next (commandStep (o.request f) finishWrite s))
      (ha : argsOk (o.request f) (valView s) = true) (hf : f = 0x05#8 ∨ f = 0x06#8) (hw : sent (o.request f) = wire) :
      exec i s = .next (startedWrite f wire) :=
    exec_accepted i _ finishWrite s _ hi hb ha (hw ▸ requestBody_single _ _ hf)
  have hcoil (hq : o.qty = 0x0000#16 ∨ o.qty = 0x0001#16) : argsOk (o.request 0x05#8) (valView s) = true :=
    (argsOk_iff _ _).2 ⟨⟨hlo, hhi⟩, .inr (.inr (.inl ⟨rfl, hq⟩))⟩
  have hreg : argsOk (o.request 0x06#8) (valView s) = true :=
    (argsOk_iff _ _).2 ⟨⟨hlo, hhi⟩, .inr (.inr (.inr (.inl rfl)))⟩
  have hsent : sent (o.request 0x05#8) = encodeCoil o.qty := rfl
  refine ⟨fun hq => ?_, fun hq => ?_, ?_⟩
  · exact hstart (.wrCoil o) 0x05#8 _ rfl (hcoil (.inr hq)) (.inl rfl) (by rw [hsent, hq]; rfl)
  · exact hstart (.wrCoil o) 0x05#8 _ rfl (hcoil (.inl hq)) (.inl rfl) (by rw [hsent, hq]; rfl)
  · exact hstart (.wrReg o) 0x06#8 _ rfl hreg (.inr rfl) rfl

/-- Settles O18: the count is within its bounds, and the data of the frame are the words written to VAL. -/
theorem registerWriteStartBuildsFrame : Obligations.RegisterWriteStartBuildsFrame := by
  intro s o ws hb hlo hhi hn h1 h123 hval body
  have hok : argsOk (o.request 0x10#8) (valView s) = true :=
    (argsOk_iff _ _).2 ⟨⟨hlo, hhi⟩, .inr (.inr (.inr (.inr (.inr ⟨rfl, hn ▸ h1, hn ▸ h123⟩))))⟩
  have hbody : requestBody (o.request 0x10#8) (valView s) = body := by
    have hqty : (o.request 0x10#8).qty.toNat = ws.length := hn
    rw [requestBody_registers _ _ rfl, hqty, registerData_of_written s ws hval]
    rfl
  exact exec_accepted (.wrRegs o) _ finishWrite s body rfl hb hok hbody

/-- Settles O19: the count and the coil values pass the check, and the data of the frame are the packed coils written to VAL. -/
theorem coilWriteStartBuildsFrame : Obligations.CoilWriteStartBuildsFrame := by
  intro s o bs hb hlo hhi hn h2040 hval body
  have hok : argsOk (o.request 0x0F#8) (valView s) = true :=
    (argsOk_iff _ _).2 ⟨⟨hlo, hhi⟩, .inr (.inr (.inr (.inr (.inl
      ⟨rfl, hn ▸ h2040, fun i hi => valView_of_written_coils s bs hval i (hn ▸ hi)⟩))))⟩
  have hbody : requestBody (o.request 0x0F#8) (valView s) = body := by
    have hqty : (o.request 0x0F#8).qty.toNat = bs.length := hn
    rw [requestBody_coils _ _ rfl, hqty, coilData_of_written s bs hval]
    rfl
  exact exec_accepted (.wrCoils o) _ finishWrite s body rfl hb hok hbody

/-! ## The length of a built frame -/

/-- The length of a built frame per function code (R187). -/
theorem buildFrame_txb_length (r : Request) (val : Nat → Half) (s : State) :
    (buildFrame r val s).txb.length =
      if r.func = 0x0F#8 then 9 + (r.qty.toNat + 7) / 8 else if r.func = 0x10#8 then 9 + 2 * r.qty.toNat else 8 := by
  have hframe : (buildFrame r val s).txb.length = (pdu r val).length + 3 := by simp [buildFrame, requestBody]
  rw [hframe, pdu_length]
  unfold ceil8
  split_ifs <;> omega

/-- Settles O20: the length per function code, and the bounds of R253 on the two counts. -/
theorem builtFrameLengths : Obligations.BuiltFrameLengths := by
  intro r val s ha n len
  have hlen : len = _ := buildFrame_txb_length r val s
  have hbounds := argsOk_bounds r val ha
  by_cases hcoils : r.func = 0x0F#8
  · have hmax : n ≤ 2040 := bounds_coils r hbounds hcoils
    rw [if_pos hcoils] at hlen
    simp [hcoils]; omega
  · by_cases hregs : r.func = 0x10#8
    · have hrange : 1 ≤ n ∧ n ≤ 123 := bounds_regs r hbounds hregs
      rw [if_neg hcoils, if_pos hregs] at hlen
      simp [hregs]; omega
    · rw [if_neg hcoils, if_neg hregs] at hlen
      simp [hcoils, hregs, hlen]

end Sys2Proof.Machine
end

section
/-! The response-completion detector (spec/44_response_assembler.md): the completion predicate per branch, and the response
classes. -/

namespace Sys2Proof.Machine

/-! ## The completion predicate per branch -/

/-- The exception branch (R201). -/
theorem isComplete_exception (sl fc : Byte) (rest : List Byte) (h7 : fc.getLsbD 7 = true) :
    isComplete (sl :: fc :: rest) = decide (5 ≤ (sl :: fc :: rest).length) := by
  simp only [isComplete, if_pos h7]

/-- The read branch, once ByteCount is in the buffer (R202). -/
theorem isComplete_read (sl fc bc : Byte) (rest : List Byte) (h7 : fc.getLsbD 7 = false)
    (hr : 1 ≤ fc.toNat ∧ fc.toNat ≤ 4) :
    isComplete (sl :: fc :: bc :: rest) = decide (bc.toNat + 5 ≤ (sl :: fc :: bc :: rest).length) := by
  rw [isComplete, if_neg (Bool.eq_false_iff.1 h7), if_pos hr]

/-- The read branch, before ByteCount is in the buffer (R204). -/
theorem isComplete_read_two (sl fc : Byte) (h7 : fc.getLsbD 7 = false) (hr : 1 ≤ fc.toNat ∧ fc.toNat ≤ 4) :
    isComplete [sl, fc] = false := by
  rw [isComplete, if_neg (Bool.eq_false_iff.1 h7), if_pos hr]

/-- The echo branch (R203). -/
theorem isComplete_echo (sl fc : Byte) (rest : List Byte) (h7 : fc.getLsbD 7 = false)
    (hr : ¬ (1 ≤ fc.toNat ∧ fc.toNat ≤ 4)) :
    isComplete (sl :: fc :: rest) = decide (8 ≤ (sl :: fc :: rest).length) := by
  simp only [isComplete, if_neg (Bool.eq_false_iff.1 h7), if_neg hr]

/-- Settles O30: a buffer without a function byte, and the three branches on one that has it. -/
theorem completionPredicateBranches : Obligations.CompletionPredicateBranches := by
  intro buf
  match buf with
  | [] | [_] => simp [isComplete]
  | sl :: fc :: rest =>
    cases h7 : fc.getLsbD 7 with
    | true => simp [isComplete_exception sl fc rest h7, h7, -BitVec.getLsbD_eq_getElem]
    | false =>
      by_cases hr : 1 ≤ fc.toNat ∧ fc.toNat ≤ 4
      · cases rest with
        | nil => simp [isComplete_read_two sl fc h7 hr, hr]
        | cons bc rest => simp [isComplete_read sl fc bc rest h7 hr, h7, hr, -BitVec.getLsbD_eq_getElem]
      · simp [isComplete_echo sl fc rest h7 hr, h7, hr, -BitVec.getLsbD_eq_getElem]

/-! ## Extensions of a buffer -/

/-- The predicate is monotone: an extension keeps the bytes that fix the branch and its bound, and only adds to the length
(R206). -/
theorem isComplete_append (buf more : List Byte) (h : isComplete buf = true) : isComplete (buf ++ more) = true := by
  obtain ⟨h2, hbranch⟩ := (completionPredicateBranches buf).1 h
  have hlen : buf.length ≤ (buf ++ more).length := by simp
  have hfc : (buf ++ more).getD 1 0#8 = buf.getD 1 0#8 := List.getD_append _ _ _ _ h2
  refine (completionPredicateBranches (buf ++ more)).2 ⟨h2.trans hlen, ?_⟩
  rw [hfc]
  rcases hbranch with ⟨h7, h5⟩ | ⟨h7, hr, h3, hbc⟩ | ⟨h7, hr, h8⟩
  · exact .inl ⟨h7, h5.trans hlen⟩
  · have hcount : (buf ++ more).getD 2 0#8 = buf.getD 2 0#8 := List.getD_append _ _ _ _ h3
    exact .inr (.inl ⟨h7, hr, h3.trans hlen, hcount ▸ hbc.trans hlen⟩)
  · exact .inr (.inr ⟨h7, hr, h8.trans hlen⟩)

/-- The function byte of a read response has no exception flag (spec/30_encoding.md R81). -/
theorem bit7_eq_false_of_le_four (fc : Byte) (h : fc.toNat ≤ 4) : fc.getLsbD 7 = false :=
  Nat.testBit_lt_two_pow (by omega)

/-- Settles O31: the predicate is monotone, and the read branch compares the length with BC + 5. -/
theorem completionIsMonotoneAndExact : Obligations.CompletionIsMonotoneAndExact := by
  refine ⟨isComplete_append, fun sl fc bc rest last hlo hhi hlen => ?_⟩
  have hread (bytes : List Byte) :
      isComplete (sl :: fc :: bc :: bytes) = decide (bc.toNat + 5 ≤ (sl :: fc :: bc :: bytes).length) :=
    isComplete_read sl fc bc bytes (bit7_eq_false_of_le_four fc hhi) ⟨hlo, hhi⟩
  constructor
  · rw [hread, decide_eq_false_iff_not]
    simp only [List.length_cons]
    omega
  · rw [List.cons_append, List.cons_append, List.cons_append, hread, decide_eq_true_eq]
    simp only [List.length_cons, List.length_append, List.length_nil]
    omega

/-! ## The response classes -/

/-- The detector ends the POLL exactly in AWAITING, where the bytes are there or the budget is spent (spec/42_transport.md R163,
R170; log entry 12). -/
theorem detectAt_eq_ite (n : Nat) (s : State) :
    detectAt n s =
      if s.phase = .awaiting ∧ (n ≤ s.rxb.length ∨ s.attempts.toNat = s.params.maxAttempts) then
        { s with phase := .validating }
      else s := by
  by_cases hp : s.phase = .awaiting
  · rw [detectAt_awaiting n s hp]
    rcases closePoll_cases (decide (n ≤ s.rxb.length)) s with ⟨hend, he⟩ | ⟨hshort, hleft, he⟩
    · rw [he, if_pos ⟨hp, hend.imp_left of_decide_eq_true⟩]
    · rw [he, if_neg fun h => h.2.elim (of_decide_eq_false hshort) hleft]
  · rw [if_neg fun h => hp h.1]
    cases hphase : s.phase with
    | awaiting => exact absurd hphase hp
    | idle | sending | validating | completed | failed => rw [detectAt, hphase]

/-- Settles O32: each class is the detector at its own length. -/
theorem responseClassesComplete : Obligations.ResponseClassesComplete := by
  intro s sl bc fn after
  have hclass (i : Instr) (n : Nat) (hi : exec i s = .next (detectAt n s)) : exec i s = .next (after n) :=
    hi.trans (congrArg _ (detectAt_eq_ite n s))
  have hread (i : Instr) (hi : exec i s = .next (detectAt (readLength bc) s)) : exec i s = .next (after (bc.toNat + 5)) :=
    hclass i (readLength bc) hi
  exact ⟨hclass _ 5 rfl, hread _ rfl, hread _ rfl, hread _ rfl, hread _ rfl, hclass _ 8 rfl⟩

end Sys2Proof.Machine
end

section
/-! The Validator (spec/45_validator.md): each check of VALIDATE with the outcome it decides, what the ends of a response leave, and
the CRC check of the shortest and of the over-read buffer; and before them that every state has a step. -/

namespace Sys2Proof.Machine

/-! ## Every state has a step -/

theorem hostWrite_next (off : Half) (width : Nat) (v : Half) (s : State) : ∃ t, hostWrite off width v s = .next t := by
  unfold hostWrite
  split
  · split
    · exact runActions_next _ s
    · exact ⟨_, rfl⟩
  · exact ⟨_, rfl⟩

theorem takeEvent_next (e : Event) (s : State) : ∃ t, takeEvent e s = .next t := by
  cases e with
  | hostWrite off width v => exact hostWrite_next off width v s
  | core => exact coreTurn_next s
  | hostRead | hostWait | deliver | reset => exact ⟨_, rfl⟩

/-- Settles O4: a step is an event or the Core's turn, and each of them answers. -/
theorem noStateStops : Obligations.NoStateStops := by
  intro s
  cases hl : s.inbox with
  | nil => exact step_silent s hl ▸ coreTurn_next s
  | cons e rest => exact step_event s e rest hl ▸ takeEvent_next e _

/-! ## The CRC check -/

theorem crc16_concat (bs : List Byte) (b : Byte) : crc16 (bs ++ [b]) = crcUpdate (crc16 bs) b := crcFrom_append _ bs [b]

/-- The CRC register after the low byte of its own value holds the high byte (spec/45_validator.md R233). -/
theorem crc16_concat_lowByte (bs : List Byte) :
    crc16 (bs ++ [(crc16 bs).extractLsb' 0 8]) = ((crc16 bs).extractLsb' 8 8).setWidth 16 := by
  rw [crc16_concat]
  nth_rw 1 [← word16_extract (crc16 bs)]
  exact crcUpdate_word16 _ _

theorem setWidth_eq_word16_iff (hi lo : Byte) : lo.setWidth 16 = word16 hi lo ↔ hi = 0x00#8 := by
  rw [← BitVec.toNat_inj, ← BitVec.toNat_inj, word16_toNat, BitVec.toNat_setWidth, BitVec.toNat_ofNat]
  omega

/-- Settles O23: the over-read byte makes the CRC's high byte and itself the trailing pair, behind a string whose CRC is that
high byte. -/
theorem oneZeroByteOverreadPasses : Obligations.OneZeroByteOverreadPasses := by
  refine ⟨crc16_concat_lowByte, fun bs b => ?_⟩
  have hsplit : withCrc bs ++ [b] = (bs ++ [(crc16 bs).extractLsb' 0 8]) ++ [(crc16 bs).extractLsb' 8 8, b] := by
    simp [withCrc, le16]
  rw [hsplit, crcMatches_append_pair, crc16_concat_lowByte, setWidth_eq_word16_iff]

/-- A buffer of two bytes passes the CRC check only as the seed, FF FF (spec/40_crc.md R121). -/
theorem crcMatches_pair (a b : Byte) : crcMatches [a, b] = true ↔ a = 0xFF#8 ∧ b = 0xFF#8 := by
  calc crcMatches ([] ++ [a, b]) = true
    _ ↔ [a, b] = le16 (crc16 []) := (crcMatches_append_pair [] a b).trans (word16_eq_iff_le16 _ a b)
    _ ↔ [a, b] = [0xFF#8, 0xFF#8] := Iff.rfl
    _ ↔ a = 0xFF#8 ∧ b = 0xFF#8 := by simp

/-- Settles O34: the one buffer of two bytes with a correct CRC begins with 0xFF, which is no legal slave. -/
theorem exceptionByteAlwaysPresent : Obligations.ExceptionByteAlwaysPresent := by
  intro s hb h2 hcrc hslave
  by_contra hshort
  obtain ⟨a, b, hab⟩ := List.length_eq_two.mp (show s.rxb.length = 2 by omega)
  rw [hab] at hcrc hslave
  have ha : s.act.slave = 0xFF#8 := hslave.symm.trans ((crcMatches_pair a b).1 hcrc).1
  have hmax := (bounds_slave s.act hb).2
  rw [ha] at hmax
  exact absurd hmax (by decide)

/-- The CRC check as the statements write it, a comparison of numbers (spec/40_crc.md R126). -/
theorem crcMatches_iff_toNat (r : List Byte) :
    crcMatches r = true ↔ (crc16 (r.take (r.length - 2))).toNat =
      (r.getD (r.length - 2) 0#8).toNat + 256 * (r.getD (r.length - 1) 0#8).toNat := by
  rw [crcMatches, decide_eq_true_eq, ← BitVec.toNat_inj, trailer_nat, crcBody]

/-! ## The checks of VALIDATE (R220, R230) -/

section
variable (fin : List Byte → State → State) (s : State)

theorem validate_empty (h : s.rxb = []) : validate fin s = fail .noResponse s := by simp [validate, h]

theorem validate_oneByte (h : s.rxb.length = 1) : validate fin s = fail .frameCorruption s := by simp [validate, h]

/-- From two bytes on CRC is loaded, and the checks of the CRC, of the slave and for an exception follow in this order. -/
theorem validate_of_two_le (h2 : 2 ≤ s.rxb.length) :
    validate fin s =
      if crcMatches s.rxb = false then fail .frameCorruption { s with crc := crc16 (crcBody s.rxb) }
      else if s.rxb.getD 0 0#8 ≠ s.act.slave then fail .addressMismatch { s with crc := crc16 (crcBody s.rxb) }
      else if s.rxb.getD 1 0#8 = s.act.func ||| 0x80#8 then
        fail .slaveException { s with crc := crc16 (crcBody s.rxb), excCode := exceptionByte s }
      else fin (payload (headerLength s.act.func) s.rxb) { s with crc := crc16 (crcBody s.rxb) } := by
  rw [validate, if_neg (show ¬ s.rxb.length = 0 by omega), if_neg (show ¬ s.rxb.length = 1 by omega)]
  simp only [crcMatches, decide_eq_false_iff_not]

theorem validate_corrupted (h2 : 2 ≤ s.rxb.length) (hcrc : crcMatches s.rxb = false) :
    validate fin s = fail .frameCorruption { s with crc := crc16 (crcBody s.rxb) } := by
  rw [validate_of_two_le fin s h2, if_pos hcrc]

theorem validate_wrongSlave (h2 : 2 ≤ s.rxb.length) (hcrc : crcMatches s.rxb = true)
    (hslave : s.rxb.getD 0 0#8 ≠ s.act.slave) :
    validate fin s = fail .addressMismatch { s with crc := crc16 (crcBody s.rxb) } := by
  rw [validate_of_two_le fin s h2, if_neg (by simp [hcrc]), if_pos hslave]

theorem validate_exception (h3 : 3 ≤ s.rxb.length) (hcrc : crcMatches s.rxb = true)
    (hslave : s.rxb.getD 0 0#8 = s.act.slave) (hexc : s.rxb.getD 1 0#8 = s.act.func ||| 0x80#8) :
    validate fin s =
      fail .slaveException { s with crc := crc16 (crcBody s.rxb), excCode := s.rxb.getD 2 0#8 } := by
  have hbyte : exceptionByte s = s.rxb.getD 2 0#8 := by rw [List.getD_eq_getElem?_getD, exceptionByte_eq s h3]; rfl
  rw [validate_of_two_le fin s (by omega), if_neg (by simp [hcrc]), if_neg (not_not.2 hslave), if_pos hexc, hbyte]

end

/-! ## The ends of a response (R227, R228) -/

/-- A read writes neither CRC nor EXC_CODE, and ends in OK or in DECODE_ERROR. -/
theorem finishRead_outcome (d : Option (List Half)) (s : State) :
    (finishRead d s).crc = s.crc ∧ (finishRead d s).excCode = s.excCode ∧
      ((finishRead d s).code = .ok ∧ (finishRead d s).phase = .completed ∨
        (finishRead d s).code = .decodeError ∧ (finishRead d s).phase = .failed) := by
  rcases finishRead_cases d s with ⟨-, h⟩ | ⟨ws, -, h⟩ <;> rw [h]
  · exact ⟨rfl, rfl, .inr ⟨rfl, rfl⟩⟩
  · exact ⟨rfl, rfl, .inl ⟨rfl, rfl⟩⟩

/-- A write writes neither CRC nor EXC_CODE, and completes. -/
theorem finishWrite_outcome (p : List Byte) (s : State) :
    (finishWrite p s).crc = s.crc ∧ (finishWrite p s).excCode = s.excCode ∧
      ((finishWrite p s).code = .ok ∨ (finishWrite p s).code = .writeNotConfirmed) ∧ (finishWrite p s).phase = .completed := by
  rcases finishWrite_cases p s with ⟨-, h⟩ | ⟨-, h⟩ <;> rw [h]
  · exact ⟨rfl, rfl, .inl rfl, rfl⟩
  · exact ⟨rfl, rfl, .inr rfl, rfl⟩

/-- The step of a command in VALIDATING is VALIDATE with a read's decoder or with the write confirmation (R220). -/
theorem exec_validating (s : State) (i : Instr) (f : Byte) (hi : i.isCommand f = true) (hp : s.phase = .validating) :
    ∃ fin : List Byte → State → State, exec i s = .next (validate fin s) ∧
      (isWrite f = false ∧ (∀ p t, ∃ d, fin p t = finishRead d t) ∨ isRead f = false ∧ fin = finishWrite) := by
  obtain ⟨o, fin, hex, hfin⟩ := command_exec i f hi
  refine ⟨fin, by rw [hex, commandStep_validating _ _ _ hp], ?_⟩
  rcases hfin with ⟨hf, rfl⟩ | ⟨hf, rfl⟩ | ⟨hf, rfl⟩
  · exact .inl ⟨(isRead_of f (hf.imp_right .inl)).2, fun _ _ => ⟨_, rfl⟩⟩
  · exact .inl ⟨(isRead_of f (.inr (.inr hf))).2, fun _ _ => ⟨_, rfl⟩⟩
  · exact .inr ⟨(isWrite_of f hf).1, rfl⟩

/-- Settles O33: the five checks in turn, and behind them what a read and a write can end in. -/
theorem validateChecksInOrder : Obligations.ValidateChecksInOrder := by
  intro s i f hi hp hf c good
  subst hf
  obtain ⟨fin, hval, hfin⟩ := exec_validating s i _ hi hp
  have hgood : crcMatches s.rxb = true ↔ good := crcMatches_iff_toNat s.rxb
  have hnext {t : State} (h : validate fin s = t) : exec i s = .next t := hval.trans (congrArg _ h)
  refine ⟨fun h => hnext (validate_empty fin s h), fun h => hnext (validate_oneByte fin s h),
    fun h2 hbad => hnext (validate_corrupted fin s h2 (Bool.eq_false_iff.2 (mt hgood.1 hbad))),
    fun h2 hg hs => hnext (validate_wrongSlave fin s h2 (hgood.2 hg) hs),
    fun h3 hg hs he => hnext (validate_exception fin s h3 (hgood.2 hg) hs he),
    fun h2 hg hs he => ⟨_, hnext (validate_passed fin s h2 (hgood.2 hg) hs he), ?_⟩⟩
  rcases hfin with ⟨hnw, hread⟩ | ⟨hnr, rfl⟩
  · obtain ⟨d, hd⟩ := hread (payload (headerLength s.act.func) s.rxb) { s with crc := crc16 (crcBody s.rxb) }
    rw [hd]
    obtain ⟨hcrc, hexc, hend⟩ := finishRead_outcome d { s with crc := crc16 (crcBody s.rxb) }
    exact ⟨hcrc, hexc, fun _ => hend, fun hw => absurd hw (Bool.eq_false_iff.1 hnw)⟩
  · obtain ⟨hcrc, hexc, hend⟩ :=
      finishWrite_outcome (payload (headerLength s.act.func) s.rxb) { s with crc := crc16 (crcBody s.rxb) }
    exact ⟨hcrc, hexc, fun hr => absurd hr (Bool.eq_false_iff.1 hnr), fun _ => hend⟩

/-- Settles O38: the frame is a body with its CRC, and its first three bytes are the slave, the exception function and the code. -/
theorem slaveExceptionReported : Obligations.SlaveExceptionReported := by
  intro s i f exc rest hi hp hf hrxb
  obtain ⟨fin, hval, -⟩ := exec_validating s i f hi hp
  have hframe : s.rxb = withCrc ([s.act.slave, f ||| 0x80#8, exc] ++ rest) := hrxb
  have hlen : 3 ≤ s.rxb.length := by simp [hframe]
  have hcrc : crcMatches s.rxb = true := hframe ▸ crcMatches_withCrc _
  have hslave : s.rxb.getD 0 0#8 = s.act.slave := by rw [hframe]; rfl
  have hfunc : s.rxb.getD 1 0#8 = s.act.func ||| 0x80#8 := by rw [hframe, hf]; rfl
  have hexc : s.rxb.getD 2 0#8 = exc := by rw [hframe]; rfl
  rw [hval, validate_exception fin s hlen hcrc hslave hfunc, hexc, hframe, crcBody_withCrc]
  rfl

/-- With an ACT.FUNC outside the eight codes the Core's turn in VALIDATING is VALIDATE without a decoder (log entry 15). -/
theorem coreTurn_unlisted (s : State) (hp : s.phase = .validating)
    (h : s.act.func ∉ ([0x01#8, 0x02#8, 0x03#8, 0x04#8, 0x05#8, 0x06#8, 0x0F#8, 0x10#8] : List Byte)) :
    coreTurn s = .next (validate finishUnlisted s) := by
  cases hd : decodeRequest s.act with
  | ok i => exact absurd (decodeRequest_ok s.act i hd) h
  | error e => simp only [coreTurn, hp, hd]

/-- Settles O5: the five checks in turn, and behind them the free outcome. -/
theorem unlistedFunctionValidates : Obligations.UnlistedFunctionValidates := by
  intro s hp hf c good
  have hgood : crcMatches s.rxb = true ↔ good := crcMatches_iff_toNat s.rxb
  have hnext {t : State} (h : validate finishUnlisted s = t) : takeEvent .core s = .next t :=
    (coreTurn_unlisted s hp hf).trans (congrArg _ h)
  refine ⟨fun h => hnext (validate_empty _ s h), fun h => hnext (validate_oneByte _ s h),
    fun h2 hbad => hnext (validate_corrupted _ s h2 (Bool.eq_false_iff.2 (mt hgood.1 hbad))),
    fun h2 hg hs => hnext (validate_wrongSlave _ s h2 (hgood.2 hg) hs),
    fun h3 hg hs he => hnext (validate_exception _ s h3 (hgood.2 hg) hs he), fun h2 hg hs he => ?_⟩
  obtain ⟨code, ph, hend, hfin⟩ :=
    finishUnlisted_cases (payload (headerLength s.act.func) s.rxb) { s with crc := crc16 (crcBody s.rxb) }
  exact ⟨code, ph, hend, hnext ((validate_passed _ s h2 (hgood.2 hg) hs he).trans hfin)⟩

/-! ## The echo of a write (R228, R232) -/

/-- The value an echo must carry, written out: the wire value of FC 5, QTYVAL of the other writes (R232). -/
theorem sent_eq_ite (r : Request) (hcoil : r.func = 0x05#8 → r.qty = 0x0000#16 ∨ r.qty = 0x0001#16) :
    sent r = if r.func = 0x05#8 then (if r.qty = 0x0001#16 then 0xFF00#16 else 0x0000#16) else r.qty := by
  by_cases h5 : r.func = 0x05#8
  · rcases hcoil h5 with hq | hq <;> simp [sent, encodeCoil, h5, hq]
  · simp [sent, encodeRegister, h5]

/-- A buffer of fewer than 8 bytes has no four payload bytes behind the write header (R225). -/
theorem write_payload_short (r : List Byte) (h : r.length < 8) : ((r.take (r.length - 2)).drop 2).length < 4 := by
  rw [List.length_drop, List.length_take]
  omega

/-- Settles O37: the write confirmation compares the first four payload bytes with the address and the sent value. -/
theorem writeEchoDecides : Obligations.WriteEchoDecides := by
  intro s i f hi hw hp hf h2 body c hcrc hslave hexc hcoil p wire
  subst hf
  obtain ⟨fin, hval, hfin⟩ := exec_validating s i _ hi hp
  obtain ⟨hnr, rfl⟩ := hfin.resolve_left fun h => absurd hw (Bool.eq_false_iff.1 h.1)
  have hfinish : exec i s = .next (finishWrite p { s with crc := c }) := by
    have hheader : headerLength s.act.func = 2 := by simp [headerLength, hnr]
    rw [hval, validate_passed _ s h2 (crcMatches_of_drop _ h2 hcrc) hslave hexc, hheader]
    rfl
  have hecho : echoOk s.act p = true ↔ p.take 4 = be16 s.act.addr ++ be16 wire := by
    rw [echoOk_iff, sent_eq_ite s.act hcoil]
  have hmismatch : p.take 4 ≠ be16 s.act.addr ++ be16 wire →
      exec i s = .next { s with crc := c, confirmed := false, code := .writeNotConfirmed, phase := .completed } := fun h => by
    rw [hfinish, finishWrite, if_neg (mt hecho.1 h)]
    rfl
  refine ⟨fun h => ?_, hmismatch, fun h8 => hmismatch fun h => ?_⟩
  · rw [hfinish, finishWrite, if_pos (hecho.2 h)]
    rfl
  · have h4 : min 4 p.length = 4 := List.length_take.symm.trans (congrArg List.length h)
    have hshort : p.length < 4 := write_payload_short s.rxb h8
    omega

end Sys2Proof.Machine
end

section
/-! The Master API (spec/46_master_api.md): the actions of one CTRL write in their order, START and ABORT on every state, and the
transition relation of PHASE. -/

namespace Sys2Proof.Machine

/-! ## The bits of one CTRL write (R264) -/

/-- Of a list of actions that begins with an optional one, that one acts first, and the rest act on the state it leaves. -/
theorem runActions_optional (bit : Bool) (i : Instr) (l : List Instr) (s : State) :
    ∃ a, (if bit then exec i s = .next a else a = s) ∧ runActions ((if bit then [i] else []) ++ l) s = runActions l a := by
  cases bit with
  | false => exact ⟨s, rfl, rfl⟩
  | true =>
    obtain ⟨a, ha⟩ := exec_next i s
    exact ⟨a, ha, by simp [runActions, ha]⟩

/-- Settles O11: the actions of a CTRL write are three optional ones in a row. -/
theorem ctrlBitsActInOrder : Obligations.CtrlBitsActInOrder := by
  intro s v
  obtain ⟨a, ha, hrunA⟩ := runActions_optional (v.getLsbD 2) .clrOverrun
    ((if v.getLsbD 1 then [.abort] else []) ++ ((if v.getLsbD 0 then [.start] else []) ++ [])) s
  obtain ⟨b, hb, hrunB⟩ := runActions_optional (v.getLsbD 1) .abort ((if v.getLsbD 0 then [.start] else []) ++ []) a
  obtain ⟨c, hc, hrunC⟩ := runActions_optional (v.getLsbD 0) .start [] b
  refine ⟨a, b, c, ha, hb, hc, ?_⟩
  calc takeEvent (.hostWrite 0x0000#16 2 v) s
    _ = runActions (ctrlActions v) s := takeEvent_ctrlWrite v s
    _ = runActions [] c := by rw [← hrunC, ← hrunB, ← hrunA, ctrlActions, List.append_nil, List.append_assoc]

/-! ## START (R252, R253) -/

/-- The busy phases (spec/10_state.md R24). -/
theorem busy_iff (p : Phase) : p.busy = true ↔ p = .sending ∨ p = .awaiting ∨ p = .validating := by
  cases p <;> decide

theorem not_busy_iff (p : Phase) : p.busy = false ↔ p = .idle ∨ p = .completed ∨ p = .failed := by
  cases p <;> decide

/-- An accepted START latches the request and builds its frame (R252). -/
theorem issue_accepted (r : Request) (s : State) (hb : s.phase.busy = false) (ha : argsOk r (valView s) = true) :
    issue r s = started r (requestBody r (valView s)) s := by
  simp only [issue, hb, ha, Bool.false_eq_true, if_false, if_true]
  rfl

/-- Settles O12: the three branches of `issue`. -/
theorem startFollowsPseudocode : Obligations.StartFollowsPseudocode := by
  refine fun s => ⟨fun h => ?_, fun h => ⟨fun ha => ?_, fun ha => ?_⟩⟩
  · exact congrArg _ (issue_busy s.req s ((busy_iff _).2 h))
  · exact congrArg _ (issue_accepted s.req s ((not_busy_iff _).2 h) ha)
  · exact congrArg _ (issue_refused s.req s ((not_busy_iff _).2 h) ha)

/-- Settles O13: the check is the table of R253, and a START that fails it leaves LINE_TX. -/
theorem argumentCheckIsSpecBounds : Obligations.ArgumentCheckIsSpecBounds :=
  ⟨fun s hb ha => ⟨_, congrArg Host.Outcome.next (issue_refused s.req s hb ha), rfl, rfl, rfl, rfl⟩, argsOk_iff⟩

/-! ## ABORT (R262) -/

theorem exec_abort_awaiting (s : State) (hp : s.phase = .awaiting) :
    exec .abort s = .next (fail .aborted { s with rxb := [], lineRxq := [] }) := by
  simp only [exec, execAbort, hp]

theorem exec_abort_ignored (s : State) (hp : s.phase ≠ .awaiting) : exec .abort s = .next s := by
  cases hph : s.phase with
  | awaiting => exact absurd hph hp
  | idle | sending | validating | completed | failed => simp only [exec, execAbort, hph]

/-- Settles O14: ABORT in AWAITING is the failure with what came discarded, and in the other phases the state itself. -/
theorem abortEndsAwaitingOnly : Obligations.AbortEndsAwaitingOnly :=
  fun s => ⟨exec_abort_awaiting s, exec_abort_ignored s⟩

/-! ## The transition relation of PHASE (R251) -/

/-- Where an accepted or a refused START can leave PHASE and CODE. -/
abbrev StartOutcome (t : State) : Prop :=
  t.phase = .failed ∧ t.code = .invalidArgument ∨ t.phase = .sending ∧ t.code = .ok

/-- START leaves a phase that is not busy for SENDING, or for FAILED with INVALID_ARGUMENT. -/
theorem issue_outcome (r : Request) (s : State) (hb : s.phase.busy = false) : StartOutcome (issue r s) := by
  cases ha : argsOk r (valView s) with
  | false => rw [issue_refused r s hb ha]; exact .inl ⟨rfl, rfl⟩
  | true => rw [issue_accepted r s hb ha]; exact .inr ⟨rfl, rfl⟩

/-- The changes of PHASE that a CTRL write can make: START, ABORT, or both. -/
theorem ctrlWrite_phase (v : Half) (s t : State) (h : runActions (ctrlActions v) s = .next t) (hne : t.phase ≠ s.phase) :
    (v.getLsbD 0 = true ∧ s.phase.busy = false ∧ StartOutcome t) ∨
    (s.phase = .awaiting ∧ v.getLsbD 1 = true ∧ v.getLsbD 0 = false ∧ t.phase = .failed ∧ t.code = .aborted) ∨
    (s.phase = .awaiting ∧ v.getLsbD 1 = true ∧ v.getLsbD 0 = true ∧ StartOutcome t) := by
  obtain ⟨a, b, ha, hb, ht⟩ := ctrlWrite_cases v s t h
  have hpa : a.phase = s.phase := by rw [ha]; split <;> rfl
  by_cases habort : v.getLsbD 1 = true ∧ s.phase = .awaiting
  · obtain ⟨h1, hp⟩ := habort
    rw [if_pos ⟨h1, hp⟩] at hb
    cases h0 : v.getLsbD 0 with
    | false =>
      rw [h0, if_neg Bool.false_ne_true, hb] at ht
      exact .inr (.inl ⟨hp, h1, rfl, by rw [ht]; exact ⟨rfl, rfl⟩⟩)
    | true =>
      rw [h0, if_pos rfl] at ht
      exact .inr (.inr ⟨hp, h1, rfl, ht ▸ issue_outcome _ b (by rw [hb]; rfl)⟩)
  · rw [if_neg habort] at hb
    subst hb
    cases h0 : v.getLsbD 0 with
    | false =>
      rw [h0, if_neg Bool.false_ne_true] at ht
      exact absurd (ht ▸ hpa) hne
    | true =>
      rw [h0, if_pos rfl] at ht
      cases hbusy : b.phase.busy with
      | false => exact .inl ⟨rfl, hpa ▸ hbusy, ht ▸ issue_outcome _ b hbusy⟩
      | true =>
        rw [issue_busy _ b hbusy] at ht
        exact absurd (ht ▸ hpa) hne

/-- VALIDATE ends the transaction. -/
theorem validate_ends (s t : State) (hp : s.phase = .validating) (h : coreTurn s = .next t) :
    t.phase = .completed ∨ t.phase = .failed := by
  rcases validate_outcomes s t hp h with
    ⟨c, rfl, -⟩ | ⟨-, ⟨c, -, rfl⟩ | ⟨-, -, rfl⟩ | ⟨-, ws, rfl⟩ | ⟨-, rfl | rfl⟩ | ⟨-, -, c, ph, hend, rfl⟩⟩
  · exact .inr rfl
  · exact .inr rfl
  · exact .inr rfl
  · exact .inl rfl
  · exact .inl rfl
  · exact .inl rfl
  · rcases hend with ⟨-, hph⟩ | ⟨-, hph⟩
    · exact .inl hph
    · exact .inr hph

/-- The changes of PHASE that the Core's turn can make: SEND, the last POLL, VALIDATE. -/
theorem coreTurn_phase (s t : State) (h : coreTurn s = .next t) (hne : t.phase ≠ s.phase) :
    (s.phase = .sending ∧ t.phase = .awaiting) ∨
    (s.phase = .awaiting ∧ t.phase = .validating ∧ (isComplete t.rxb = true ∨ t.attempts.toNat = t.params.maxAttempts)) ∨
    (s.phase = .validating ∧ (t.phase = .completed ∨ t.phase = .failed)) := by
  rcases coreTurn_cases s t h with ⟨-, rfl⟩ | ⟨hp, rfl⟩ | ⟨hp, rfl⟩ | ⟨hp, hv⟩
  · exact absurd rfl hne
  · exact .inl ⟨hp, rfl⟩
  · rcases closePoll_cases (isComplete (receive s).rxb) (receive s) with ⟨hend, he⟩ | ⟨-, -, he⟩
    · rw [poll, he]
      exact .inr (.inl ⟨hp, rfl, hend⟩)
    · rw [poll, he] at hne
      exact absurd rfl hne
  · exact .inr (.inr ⟨hp, validate_ends s t hp hv⟩)

/-- Settles O47: only a CTRL write and the Core's turn change PHASE, each as its lemma says. -/
theorem phaseChangesAreTheTable : Obligations.PhaseChangesAreTheTable := by
  intro s t e h hreset hne
  rcases takeEvent_writers e s t h with ⟨v, hk, hv⟩ | ⟨rfl, hc⟩ | ⟨hr, -⟩ | hp
  · rw [hk, hk]
    rcases ctrlWrite_phase v s t hv hne with hstart | habort | hboth
    · exact .inl hstart
    · exact .inr (.inr (.inr (.inl habort)))
    · exact .inr (.inr (.inr (.inr (.inl hboth))))
  · rcases coreTurn_phase s t hc hne with hsend | hpoll | hvalidate
    · exact .inr (.inl ⟨rfl, hsend⟩)
    · exact .inr (.inr (.inl ⟨rfl, hpoll⟩))
    · exact .inr (.inr (.inr (.inr (.inr ⟨rfl, hvalidate⟩))))
  · exact absurd hr hreset
  · exact absurd (by rw [hp]) hne

end Sys2Proof.Machine
end

section
/-! Every transaction ends (spec/46_master_api.md R267; 70_reset_and_hazards.md R372): each turn of the Core takes one of the steps
that the transaction has left, no other event takes or adds one, and a WAIT gives the Core its turns. -/

namespace Sys2Proof.Machine

/-! ## The steps left -/

theorem stepsLeft_sending (s : State) (hp : s.phase = .sending) : stepsLeft s = s.params.maxAttempts + 2 := by
  rw [stepsLeft, hp]

theorem stepsLeft_awaiting (s : State) (hp : s.phase = .awaiting) :
    stepsLeft s = s.params.maxAttempts - s.attempts.toNat + 1 := by
  rw [stepsLeft, hp]

theorem stepsLeft_validating (s : State) (hp : s.phase = .validating) : stepsLeft s = 1 := by
  rw [stepsLeft, hp]

/-- A transaction has steps left exactly while it is busy. -/
theorem stepsLeft_pos_iff (s : State) : 0 < stepsLeft s ↔ s.phase.busy = true := by
  cases hp : s.phase <;> simp [stepsLeft, hp, Phase.busy]

/-- The steps left are read from PHASE, ATTEMPTS and the budget. -/
theorem stepsLeft_congr (s t : State) (hph : t.phase = s.phase) (hatt : t.attempts = s.attempts) (hpar : t.params = s.params) :
    stepsLeft t = stepsLeft s := by
  rw [stepsLeft, stepsLeft, hph, hatt, hpar]

/-- A transaction of a machine that meets the invariant, in flight or done. -/
abbrev Underway (s : State) : Prop := Inv s ∧ s.phase ≠ .idle

/-- Such a transaction is in flight until it is done. -/
theorem Underway.done_eq_not_busy {s : State} (h : Underway s) : s.phase.done = !s.phase.busy := by
  obtain ⟨-, hidle⟩ := h
  cases hp : s.phase with
  | idle => exact absurd hp hidle
  | sending | awaiting | validating | completed | failed => rfl

theorem underway_of_busy (s : State) (h : Inv s) (hb : s.phase.busy = true) : Underway s :=
  ⟨h, fun hp => by simp [hp, Phase.busy] at hb⟩

/-! ## What an event takes of them -/

/-- A POLL takes one step, or all but the VALIDATE. -/
theorem poll_stepsLeft (s : State) (h : Inv s) (hp : s.phase = .awaiting) :
    (poll s).phase ≠ .idle ∧ stepsLeft (poll s) < stepsLeft s := by
  obtain ⟨hpar, -, -, ⟨-, -, hbelow⟩, -⟩ := h
  have hbudget := hbelow hp
  have hcount := receive_attempts_toNat s hpar hbudget
  rcases closePoll_cases (isComplete (receive s).rxb) (receive s) with ⟨-, he⟩ | ⟨-, -, he⟩ <;>
    rw [poll, he, stepsLeft_awaiting s hp]
  · rw [stepsLeft_validating _ rfl]
    exact ⟨nofun, by omega⟩
  · rw [stepsLeft_awaiting (receive s) hp, hcount, receive_params]
    exact ⟨by simp [hp], by omega⟩

/-- A turn of the Core takes one of the steps left at least, if there is one. -/
theorem coreTurn_stepsLeft (s t : State) (h : Underway s) (ht : coreTurn s = .next t) :
    t.phase ≠ .idle ∧ stepsLeft t ≤ stepsLeft s - 1 := by
  obtain ⟨hinv, hidle⟩ := h
  rcases coreTurn_cases s t ht with ⟨hb, rfl⟩ | ⟨hp, rfl⟩ | ⟨hp, rfl⟩ | ⟨hp, hv⟩
  · have hnone := mt (stepsLeft_pos_iff t).1 (Bool.eq_false_iff.1 hb)
    exact ⟨hidle, by omega⟩
  · rw [stepsLeft_sending s hp, stepsLeft_awaiting _ (send_phase s)]
    exact ⟨nofun, by simp⟩
  · obtain ⟨hph, hlt⟩ := poll_stepsLeft s hinv hp
    exact ⟨hph, Nat.le_sub_one_of_lt hlt⟩
  · rcases validate_ends s t hp hv with hph | hph <;> simp [stepsLeft, hph]

/-- A quiet event is no CTRL write. -/
theorem isCtrlWrite_of_quiet (e : Event) (hq : e.quiet = true) : e.isCtrlWrite = false := by
  cases e with
  | hostWrite off width v => simpa only [Event.quiet, Event.isCtrlWrite, Bool.not_eq_true'] using hq
  | hostRead | hostWait | deliver | core | reset => rfl

/-- A quiet event that is no turn of the Core leaves PHASE and the steps left. -/
theorem takeEvent_bystander (e : Event) (s t : State) (hq : e.quiet = true) (hcore : e ≠ .core) (h : takeEvent e s = .next t) :
    t.phase = s.phase ∧ stepsLeft t = stepsLeft s := by
  rcases takeEvent_cases e s t h with ⟨v, hctrl, -⟩ | ⟨_, _, _, -, -, q, m, rfl⟩ | ⟨_, _, d, k, -, rfl⟩ |
    ⟨d, -, rfl⟩ | ⟨he, -⟩ | ⟨rfl, -⟩ | ⟨rfl, -⟩
  · exact absurd hctrl (Bool.eq_false_iff.1 (isCtrlWrite_of_quiet e hq))
  · exact ⟨rfl, rfl⟩
  · exact ⟨rfl, rfl⟩
  · exact ⟨rfl, rfl⟩
  · exact absurd he hcore
  · cases hq
  · cases hq

/-- Every quiet event keeps the transaction and adds no steps, and the Core's turn takes one. -/
theorem takeEvent_underway (e : Event) (s t : State) (hq : e.quiet = true) (h : Underway s) (ht : takeEvent e s = .next t) :
    Underway t ∧ stepsLeft t ≤ stepsLeft s - [e].count .core := by
  have hinv := inv_takeEvent e s t h.1 ht
  by_cases hcore : e = .core
  · subst hcore
    obtain ⟨hph, hleft⟩ := coreTurn_stepsLeft s t h ht
    exact ⟨⟨hinv, hph⟩, hleft⟩
  · obtain ⟨hph, hleft⟩ := takeEvent_bystander e s t hq hcore ht
    exact ⟨⟨hinv, hph ▸ h.2⟩, by simp [hleft, hcore]⟩

/-- A step of a run that takes a quiet event. -/
theorem step_underway (e : Event) (l : List Event) (s : State) (hq : e.quiet = true) (h : Underway s) (hin : s.inbox = e :: l) :
    ∃ t, step s = .next t ∧ Underway t ∧ stepsLeft t ≤ stepsLeft s - [e].count .core ∧ t.inbox = l := by
  obtain ⟨t, ht⟩ := takeEvent_next e { s with inbox := l }
  obtain ⟨hu, hleft⟩ := takeEvent_underway e { s with inbox := l } t hq h ht
  have hwait : e ≠ .hostWait := by rintro rfl; cases hq
  exact ⟨t, (step_event s e l hin).trans ht, hu, hleft, takeEvent_inbox e _ t hwait ht⟩

/-- A run of quiet events with a turn of the Core for each step left ends the transaction. -/
theorem run_quiet_ends (es rest : List Event) (s : State) (h : Underway s) (hq : ∀ e ∈ es, e.quiet = true)
    (hc : stepsLeft s ≤ es.count .core) (hin : s.inbox = es ++ rest) :
    ∃ t, run es.length s = .next t ∧ t.phase.done = true := by
  induction es generalizing s with
  | nil =>
    have hb : s.phase.busy = false := Bool.eq_false_iff.2 fun hb => Nat.not_lt.2 hc ((stepsLeft_pos_iff s).2 hb)
    exact ⟨s, rfl, by rw [h.done_eq_not_busy, hb]; rfl⟩
  | cons e es ih =>
    obtain ⟨he, hes⟩ := List.forall_mem_cons.1 hq
    obtain ⟨t, ht, hu, hleft, htin⟩ := step_underway e (es ++ rest) s he h hin
    have hcount : (e :: es).count .core = [e].count .core + es.count .core := List.count_append (l₁ := [e])
    obtain ⟨u, hrun, hdone⟩ := ih t hu hes (by omega) htin
    exact ⟨u, (run_succ _ s t ht).trans hrun, hdone⟩

/-! ## A WAIT -/

/-- A WAIT that finds DONE = 0 gives its turn to a quiet event: the next of the Line's and the Core's events `others`, or where
none is left before the Host's, a turn of the Core. -/
theorem waitAgain_quiet (others rest : List Event) (ho : ∀ e ∈ others, e = .core ∨ ∃ d, e = .deliver d)
    (hr : ∀ e ∈ rest.head?, e.isHost = true) :
    ∃ e os, waitAgain (others ++ rest) = e :: .hostWait :: (os ++ rest) ∧ e.quiet = true ∧ os <:+ others ∧
      (os.length < others.length ∨ e = .core) := by
  cases others with
  | cons e os =>
    have hstep : e.isHost = false ∧ e.quiet = true := by
      rcases (List.forall_mem_cons.1 ho).1 with rfl | ⟨d, rfl⟩ <;> exact ⟨rfl, rfl⟩
    obtain ⟨hhost, hquiet⟩ := hstep
    exact ⟨e, os, by simp [waitAgain, hhost], hquiet, List.suffix_cons e os, .inl (Nat.lt_succ_self _)⟩
  | nil =>
    refine ⟨.core, [], ?_, rfl, List.suffix_refl _, .inr rfl⟩
    rcases waitAgain_cases rest with ⟨e, l, rfl, hhost, -⟩ | ⟨-, he⟩
    · exact absurd (hr e rfl) (Bool.eq_false_iff.1 hhost)
    · exact he

/-- A step of a run that takes a WAIT (spec/30_encoding.md R99). -/
theorem step_wait (l : List Event) (s : State) (hin : s.inbox = .hostWait :: l) :
    step s = .next { s with
      hostData := some (statusWord s), inbox := if s.phase.done then l else waitAgain l } :=
  (step_event s .hostWait l hin).trans (congrArg Host.Outcome.next (hostWait_eq { s with inbox := l }))

/-- A WAIT for a transaction ends, with DONE = 1 in the word read, before any later step of the Host. -/
theorem run_wait_ends (others rest : List Event) (s : State) (h : Underway s)
    (ho : ∀ e ∈ others, e = .core ∨ ∃ d, e = .deliver d) (hr : ∀ e ∈ rest.head?, e.isHost = true)
    (hin : s.inbox = .hostWait :: (others ++ rest)) :
    ∃ k t left, k ≤ 2 * (others.length + stepsLeft s) + 1 ∧ run k s = .next t ∧ t.phase.done = true ∧ left <:+ others ∧
      t.inbox = left ++ rest ∧ ∃ w, t.hostData = some w ∧ w.getLsbD 3 = true := by
  induction hn : others.length + stepsLeft s using Nat.strong_induction_on generalizing s others with
  | _ n ih =>
    subst hn
    have hread := step_wait (others ++ rest) s hin
    cases hd : s.phase.done with
    | true =>
      rw [hd, if_pos rfl] at hread
      exact ⟨1, _, others, by omega, run_succ 0 s _ hread, hd, List.suffix_refl _, rfl, _, rfl, (statusWord_done s).trans hd⟩
    | false =>
      obtain ⟨e, os, hagain, he, hos, hless⟩ := waitAgain_quiet others rest ho hr
      rw [hd, if_neg Bool.false_ne_true, hagain] at hread
      obtain ⟨u, hu, huw, hleft, huin⟩ := step_underway e (.hostWait :: (os ++ rest))
        { s with hostData := some (statusWord s), inbox := e :: .hostWait :: (os ++ rest) } he h rfl
      have hmore : 0 < stepsLeft s := (stepsLeft_pos_iff s).2 (by simpa [h.done_eq_not_busy] using hd)
      have hleft : stepsLeft u ≤ stepsLeft s - [e].count .core := hleft
      have hshrinks : os.length + stepsLeft u < others.length + stepsLeft s := by
        have := hos.length_le
        rcases hless with hlt | rfl
        · omega
        · rw [List.count_singleton_self] at hleft
          omega
      obtain ⟨k, t, left, hk, hrun, hdone, hsuf, htin, hw⟩ :=
        ih _ hshrinks os u huw (fun e he => ho e (hos.subset he)) huin rfl
      refine ⟨k + 2, t, left, by omega, ?_, hdone, hsuf.trans hos, htin, hw⟩
      rw [run_succ (k + 1) s _ hread, run_succ k _ u hu, hrun]

/-- Settles O57: the run and the WAIT of a transaction under way, from its busy phases. -/
theorem everyTransactionEnds : Obligations.EveryTransactionEnds :=
  ⟨fun s es rest h hb hq hc => run_quiet_ends es rest { s with inbox := es ++ rest } (underway_of_busy s h hb) hq hc rfl,
    fun s others rest h hb ho hr =>
      run_wait_ends others rest { s with inbox := .hostWait :: others ++ rest } (underway_of_busy s h hb) ho hr rfl⟩

end Sys2Proof.Machine
end

section
/-! The Line premise (spec/70_reset_and_hazards.md R353): the frames of the two kinds of response, and that a frame under LINE_OK
reaches VALIDATE whole, however the Line cuts it. -/

namespace Sys2Proof.Machine

/-! ## Frames: complete, and not before the last byte (R353) -/

/-- A read response is a frame at ByteCount + 5 bytes (spec/44_response_assembler.md R202). -/
theorem isFrame_read (sl fc bc : Byte) (rest : List Byte) (hr : 1 ≤ fc.toNat ∧ fc.toNat ≤ 4)
    (hlen : (sl :: fc :: bc :: rest).length = bc.toNat + 5) : IsFrame (sl :: fc :: bc :: rest) := by
  have h7 := bit7_eq_false_of_le_four fc hr.2
  refine ⟨by rw [isComplete_read sl fc bc rest h7 hr, hlen, decide_eq_true rfl.le], fun n hn => ?_⟩
  match n, hn with
  | 0, _ | 1, _ => rfl
  | 2, _ => exact isComplete_read_two sl fc h7 hr
  | n + 3, hn =>
    simp only [List.take_succ_cons, isComplete_read sl fc bc _ h7 hr, decide_eq_false_iff_not, List.length_cons, List.length_take]
      at hn hlen ⊢
    omega

/-- An echo is a frame at 8 bytes (spec/44_response_assembler.md R203). -/
theorem isFrame_echo (sl fc : Byte) (rest : List Byte) (h7 : fc.getLsbD 7 = false) (hr : ¬ (1 ≤ fc.toNat ∧ fc.toNat ≤ 4))
    (hlen : (sl :: fc :: rest).length = 8) : IsFrame (sl :: fc :: rest) := by
  refine ⟨by rw [isComplete_echo sl fc rest h7 hr, hlen]; rfl, fun n hn => ?_⟩
  match n, hn with
  | 0, _ | 1, _ => rfl
  | n + 2, hn =>
    simp only [List.take_succ_cons, isComplete_echo sl fc _ h7 hr, decide_eq_false_iff_not, List.length_cons, List.length_take]
      at hn hlen ⊢
    omega

/-- A frame has at most 260 bytes: every branch of the predicate is decided by then. -/
theorem IsFrame.length_le {r : List Byte} (h : IsFrame r) : r.length ≤ 260 := by
  obtain ⟨hcomplete, hearlier⟩ := h
  by_contra hlong
  have hlen : (r.take 260).length = 260 := by rw [List.length_take]; omega
  have htake (i : Nat) (hi : i < 260) : (r.take 260).getD i 0#8 = r.getD i 0#8 := by
    simp [List.getD_eq_getElem?_getD, hi]
  have hbc := (r.getD 2 0#8).isLt
  refine absurd ((completionPredicateBranches (r.take 260)).2 ?_) (Bool.eq_false_iff.1 (hearlier 260 (by omega)))
  obtain ⟨-, hbranch⟩ := (completionPredicateBranches r).1 hcomplete
  rw [hlen, htake 1 (by decide), htake 2 (by decide)]
  refine ⟨by decide, ?_⟩
  rcases hbranch with ⟨h7, -⟩ | ⟨h7, hr, -, -⟩ | ⟨h7, hr, -⟩
  · exact .inl ⟨h7, by decide⟩
  · exact .inr (.inl ⟨h7, hr, by decide, by omega⟩)
  · exact .inr (.inr ⟨h7, hr, by decide⟩)

/-- A buffer that more bytes make up to a frame is not complete. -/
theorem IsFrame.incomplete_of_append {buf more r : List Byte} (h : IsFrame r) (hr : buf ++ more = r) (hmore : more ≠ []) :
    isComplete buf = false := by
  subst hr
  have hlt : buf.length < (buf ++ more).length := by
    have := List.length_pos_iff.2 hmore
    rw [List.length_append]; omega
  simpa using h.2 buf.length hlt

/-! ## The POLLs of a schedule -/

/-- A receipt with room for everything that came drops nothing (spec/42_transport.md R165). -/
theorem receive_roomy (s : State) (hroom : (s.rxb ++ s.lineRxq).length ≤ s.params.rxCapacity) :
    receive s = { s with lineRxq := [], rxb := s.rxb ++ s.lineRxq, attempts := s.attempts + 1#16 } := by
  rw [List.length_append] at hroom
  have htake : s.lineRxq.take (s.params.rxCapacity - s.rxb.length) = s.lineRxq := List.take_of_length_le (by omega)
  have hovf : ¬ s.params.rxCapacity - s.rxb.length < s.lineRxq.length := by omega
  rw [receive, htake, decide_eq_false hovf, Bool.or_false]

/-- A POLL with room that makes the buffer complete ends in VALIDATING (spec/42_transport.md R163). -/
theorem poll_of_complete (s : State) (hroom : (s.rxb ++ s.lineRxq).length ≤ s.params.rxCapacity)
    (h : isComplete (s.rxb ++ s.lineRxq) = true) :
    poll s = { s with
      lineRxq := [], rxb := s.rxb ++ s.lineRxq, attempts := s.attempts + 1#16, phase := .validating } := by
  simp only [poll, receive_roomy s hroom, h, closePoll, Bool.true_or, if_true]

/-- A POLL with room that leaves the buffer incomplete, within the budget, is the receipt alone. -/
theorem poll_of_incomplete (s : State) (hroom : (s.rxb ++ s.lineRxq).length ≤ s.params.rxCapacity)
    (h : isComplete (s.rxb ++ s.lineRxq) = false) (hpar : s.params.wf) (hbudget : s.attempts.toNat + 1 < s.params.maxAttempts) :
    poll s = { s with lineRxq := [], rxb := s.rxb ++ s.lineRxq, attempts := s.attempts + 1#16 } := by
  have hcount := receive_attempts_toNat s hpar (by omega)
  rw [← receive_roomy s hroom, poll]
  rcases closePoll_cases (isComplete (receive s).rxb) (receive s) with ⟨hend | hend, -⟩ | ⟨-, -, he⟩
  · rw [receive_roomy s hroom, h] at hend
    cases hend
  · rw [hcount, receive_params] at hend
    omega
  · exact he

/-- The run of a schedule is its first deliveries, their POLL, and the run of the rest. -/
theorem run_pollSchedule_cons (ds : List (List Byte)) (polls : List (List (List Byte))) (rest : List Event) (s : State)
    (hp : s.phase = .awaiting) (hq : s.lineRxq = []) :
    run (pollSchedule (ds :: polls)).length { s with inbox := pollSchedule (ds :: polls) ++ rest } =
      run (pollSchedule polls).length (poll { s with lineRxq := ds.flatten, inbox := pollSchedule polls ++ rest }) := by
  have hlen : (pollSchedule (ds :: polls)).length = ds.length + ((pollSchedule polls).length + 1) := by
    simp only [pollSchedule, List.flatMap_cons, List.length_append, List.length_map, List.length_cons, List.length_nil]
    omega
  have hsched : pollSchedule (ds :: polls) ++ rest = ds.map .deliver ++ .core :: (pollSchedule polls ++ rest) := by
    simp [pollSchedule]
  rw [hlen, hsched, run_delivers, hq, List.nil_append]
  exact run_event _ .core { s with lineRxq := ds.flatten } _ _ (coreTurn_awaiting _ hp)

/-- What is delivered before a last POLL that takes a byte is not empty. -/
theorem flatten_ne_nil_of_getLast? (polls : List (List (List Byte)))
    (h : ∃ ds, polls.getLast? = some ds ∧ ds.flatten ≠ []) : polls.flatten.flatten ≠ [] := by
  obtain ⟨ds, hlast, hne⟩ := h
  obtain ⟨init, rfl⟩ := List.getLast?_eq_some_iff.1 hlast
  simp [hne]

/-- A POLL within a frame: the run goes on with the bytes of `ds` in RXB and one attempt more. -/
theorem run_pollSchedule_within (ds : List (List Byte)) (polls : List (List (List Byte))) (rest : List Event) (s : State)
    (hp : s.phase = .awaiting) (hq : s.lineRxq = []) (hroom : (s.rxb ++ ds.flatten).length ≤ s.params.rxCapacity)
    (hopen : isComplete (s.rxb ++ ds.flatten) = false) (hpar : s.params.wf)
    (hbudget : s.attempts.toNat + 1 < s.params.maxAttempts) :
    run (pollSchedule (ds :: polls)).length { s with inbox := pollSchedule (ds :: polls) ++ rest } =
      run (pollSchedule polls).length { s with
        lineRxq := [], rxb := s.rxb ++ ds.flatten, attempts := s.attempts + 1#16, inbox := pollSchedule polls ++ rest } :=
  (run_pollSchedule_cons ds polls rest s hp hq).trans
    (congrArg _
      (poll_of_incomplete { s with lineRxq := ds.flatten, inbox := pollSchedule polls ++ rest } hroom hopen hpar hbudget))

/-- The last POLL of a frame. -/
theorem run_pollSchedule_last (ds : List (List Byte)) (rest : List Event) (s : State)
    (hp : s.phase = .awaiting) (hq : s.lineRxq = []) (hroom : (s.rxb ++ ds.flatten).length ≤ s.params.rxCapacity)
    (hcomplete : isComplete (s.rxb ++ ds.flatten) = true) :
    run (pollSchedule [ds]).length { s with inbox := pollSchedule [ds] ++ rest } = .next { s with
      lineRxq := [], rxb := s.rxb ++ ds.flatten, attempts := s.attempts + 1#16, phase := .validating, inbox := rest } :=
  (run_pollSchedule_cons ds [] rest s hp hq).trans
    (congrArg Host.Outcome.next (poll_of_complete { s with lineRxq := ds.flatten, inbox := rest } hroom hcomplete))

/-- POLLs whose deliveries make up the frame `r`, the last of them not empty, fill RXB with it and end in VALIDATING, where the
budget lasts. -/
theorem run_polls (polls : List (List (List Byte))) (r : List Byte) (rest : List Event) (s : State) (hpar : s.params.wf)
    (hp : s.phase = .awaiting) (hq : s.lineRxq = []) (hr : s.rxb ++ polls.flatten.flatten = r) (hframe : IsFrame r)
    (hbudget : s.attempts.toNat + polls.length ≤ s.params.maxAttempts)
    (hlast : ∃ ds, polls.getLast? = some ds ∧ ds.flatten ≠ []) :
    run (pollSchedule polls).length { s with inbox := pollSchedule polls ++ rest } = .next { s with
      phase := .validating, lineRxq := [], rxb := r, attempts := s.attempts + BitVec.ofNat 16 polls.length, inbox := rest } := by
  induction polls generalizing s with
  | nil => simp at hlast
  | cons ds polls ih =>
    have hjoin : s.rxb ++ ds.flatten ++ polls.flatten.flatten = r := by simpa using hr
    have hroom : (s.rxb ++ ds.flatten).length ≤ s.params.rxCapacity := by
      obtain ⟨-, -, hmin, -⟩ := hpar
      have hshort := hframe.length_le
      simp only [← hjoin, List.length_append, Config.minRxCapacity] at hshort hmin ⊢
      omega
    cases polls with
    | nil =>
      have hall : s.rxb ++ ds.flatten = r := by simpa using hjoin
      rw [run_pollSchedule_last ds rest s hp hq hroom (hall ▸ hframe.1), hall]
      rfl
    | cons ds' polls =>
      have hopen : isComplete (s.rxb ++ ds.flatten) = false :=
        hframe.incomplete_of_append hjoin (flatten_ne_nil_of_getLast? _ hlast)
      simp only [List.length_cons] at hbudget
      have hcount : (s.attempts + 1#16).toNat = s.attempts.toNat + 1 := receive_attempts_toNat s hpar (by omega)
      have hattempts : s.attempts + BitVec.ofNat 16 (ds :: ds' :: polls).length =
          s.attempts + 1#16 + BitVec.ofNat 16 (ds' :: polls).length := by
        rw [BitVec.add_assoc, List.length_cons, Nat.add_comm, BitVec.ofNat_add]
      rw [run_pollSchedule_within ds (ds' :: polls) rest s hp hq hroom hopen hpar (by omega), hattempts]
      exact ih { s with lineRxq := [], rxb := s.rxb ++ ds.flatten, attempts := s.attempts + 1#16 } hpar hp rfl hjoin
        (by simp only [hcount, List.length_cons]; omega) hlast

/-- Under LINE_OK, for a frame, VALIDATE is reached with RXB the frame and nothing left on the line (R353). -/
theorem run_lineOk (s : State) (polls : List (List (List Byte))) (r : List Byte) (rest : List Event) (hpar : s.params.wf)
    (hp : s.phase = .awaiting) (hrxb : s.rxb = []) (hq : s.lineRxq = []) (hatt : s.attempts = 0#16)
    (hline : LineOk s.params polls r) (hframe : IsFrame r) :
    run (pollSchedule polls).length { s with inbox := pollSchedule polls ++ rest } = .next { s with
      phase := .validating, rxb := r, attempts := BitVec.ofNat 16 polls.length, inbox := rest } := by
  have hr : s.rxb ++ polls.flatten.flatten = r := by rw [hrxb, hline.bytes, List.nil_append]
  have hbudget : s.attempts.toNat + polls.length ≤ s.params.maxAttempts := by simpa [hatt] using hline.timely
  rw [run_polls polls r rest s hpar hp hq hr hframe hbudget hline.lastByte, hatt, hq, BitVec.zero_add]

end Sys2Proof.Machine
end

section
/-! Transactions end to end (spec/46_master_api.md R256-R259): from START to VALIDATE, the register reads and the single writes end
in what the slave answered. -/

namespace Sys2Proof.Machine

/-! ## A transaction up to VALIDATE -/

/-- The state in which VALIDATE finds the response `r`, which came with the last of `polls` POLLs, to the request in REQ with the
body `body`. -/
def answered (body r : List Byte) (polls : Nat) (s : State) : State :=
  { send (started s.req body s) with phase := .validating, rxb := r, attempts := BitVec.ofNat 16 polls }

/-- The START of the request in REQ by a write of CTRL. -/
theorem takeEvent_start (s : State) (hb : s.phase.busy = false) (ha : argsOk s.req (valView s) = true) :
    takeEvent (wr 0x0000#16 0x0001#16) s = .next (started s.req (requestBody s.req (valView s)) s) :=
  calc takeEvent (wr 0x0000#16 0x0001#16) s
    _ = runActions [.start] s := takeEvent_ctrlWrite _ s
    _ = .next (issue s.req s) := runActions_singleton .start s
    _ = .next (started s.req (requestBody s.req (valView s)) s) := congrArg _ (issue_accepted s.req s hb ha)

/-- A run that starts with the START of a legal request and its SEND. -/
theorem run_start_send (k : Nat) (s : State) (l : List Event) (hb : s.phase.busy = false)
    (ha : argsOk s.req (valView s) = true) :
    run (k + 1 + 1) { s with inbox := wr 0x0000#16 0x0001#16 :: .core :: l } =
      run k { send (started s.req (requestBody s.req (valView s)) s) with inbox := l } :=
  (run_event (k + 1) _ s _ (.core :: l) (takeEvent_start { s with inbox := .core :: l } hb ha)).trans
    (run_event k .core (started s.req (requestBody s.req (valView s)) s) _ l
      (coreTurn_sending { started s.req (requestBody s.req (valView s)) s with inbox := l } rfl))

/-- START, SEND, the POLLs of a response under LINE_OK, and VALIDATE. -/
def transactionEvents (polls : List (List (List Byte))) : List Event :=
  [wr 0x0000#16 0x0001#16, .core] ++ pollSchedule polls ++ [.core]

/-- A transaction whose response meets LINE_OK ends as the VALIDATE of that response. -/
theorem run_transaction (s t : State) (r : List Byte) (polls : List (List (List Byte))) (rest : List Event)
    (hpar : s.params.wf) (hb : s.phase.busy = false) (ha : argsOk s.req (valView s) = true)
    (hline : LineOk s.params polls r) (hframe : IsFrame r)
    (ht : coreTurn (answered (requestBody s.req (valView s)) r polls.length { s with inbox := rest }) = .next t) :
    run (transactionEvents polls).length { s with inbox := transactionEvents polls ++ rest } = .next t := by
  have hevents : transactionEvents polls ++ rest =
      wr 0x0000#16 0x0001#16 :: .core :: (pollSchedule polls ++ .core :: rest) := by
    simp [transactionEvents]
  have hlength : (transactionEvents polls).length = (pollSchedule polls).length + 1 + 1 + 1 := by
    simp [transactionEvents]
  rw [hevents, hlength]
  calc run ((pollSchedule polls).length + 1 + 1 + 1) { s with inbox := _ }
    _ = run ((pollSchedule polls).length + 1) { send (started s.req (requestBody s.req (valView s)) s) with inbox := _ } :=
      run_start_send _ s _ hb ha
    _ = run 1 { answered (requestBody s.req (valView s)) r polls.length s with inbox := .core :: rest } :=
      run_add _ 1 _ _ (run_lineOk (send _) polls r (.core :: rest) hpar rfl rfl rfl rfl hline hframe)
    _ = .next t := run_event 0 .core (answered (requestBody s.req (valView s)) r polls.length s) t rest ht

/-! ## VALIDATE of a response -/

/-- VALIDATE of a response with a correct CRC, from the addressed slave and with the FUNC of the request, is the decoder on the
payload (spec/45_validator.md R220). -/
theorem validate_response (fin : List Byte → State → State) (s : State) (data : List Byte) (h7 : s.act.func.getLsbD 7 = false)
    (hrxb : s.rxb = withCrc ([s.act.slave, s.act.func] ++ data)) :
    validate fin s =
      fin (([s.act.slave, s.act.func] ++ data).drop (headerLength s.act.func)) { s with crc := crc16 (crcBody s.rxb) } := by
  have noException : ∀ f : Byte, f.getLsbD 7 = false → f ≠ f ||| 0x80#8 := by decide
  have hslave : s.rxb.getD 0 0#8 = s.act.slave := by rw [hrxb]; rfl
  have hfunc : s.rxb.getD 1 0#8 ≠ s.act.func ||| 0x80#8 := by rw [hrxb]; exact noException _ h7
  have hpayload (h : Nat) : payload h s.rxb = ([s.act.slave, s.act.func] ++ data).drop h := by
    rw [payload, hrxb, crcBody_withCrc]
  rw [validate_passed fin s (by simp [hrxb]) (hrxb ▸ crcMatches_withCrc _) hslave hfunc, hpayload]

/-- The Core's turn in VALIDATING is the VALIDATE of the command in ACT with its decoder. -/
theorem coreTurn_of_command (s : State) (i : Instr) (r : Request) (fin : List Byte → State → State)
    (hp : s.phase = .validating) (hd : decodeRequest s.act = .ok i) (hi : exec i s = .next (commandStep r fin s)) :
    coreTurn s = .next (validate fin s) := by
  rw [coreTurn_eq_command s i (by rw [hp]; rfl) hd, hi, commandStep_validating r fin s hp]

theorem coreTurn_registerRead (s : State) (hp : s.phase = .validating) (hf : s.act.func = 0x03#8 ∨ s.act.func = 0x04#8) :
    coreTurn s = .next (validate finishRegisters s) := by
  rcases hf with hf | hf
  · exact coreTurn_of_command s (.rdHolding s.act.operands) _ _ hp (by simp [decodeRequest, hf]) rfl
  · exact coreTurn_of_command s (.rdInput s.act.operands) _ _ hp (by simp [decodeRequest, hf]) rfl

theorem coreTurn_singleWrite (s : State) (hp : s.phase = .validating) (hf : s.act.func = 0x05#8 ∨ s.act.func = 0x06#8) :
    coreTurn s = .next (validate finishWrite s) := by
  rcases hf with hf | hf
  · exact coreTurn_of_command s (.wrCoil s.act.operands) _ _ hp (by simp [decodeRequest, hf]) rfl
  · exact coreTurn_of_command s (.wrReg s.act.operands) _ _ hp (by simp [decodeRequest, hf]) rfl

/-! ## Register reads -/

/-- The frame in which a slave answers a register read with the words `ws` (spec/30_encoding.md R85). -/
def registerResponse (slave func : Byte) (ws : List Half) : List Byte :=
  withCrc ([slave, func, BitVec.ofNat 8 (2 * ws.length)] ++ encodeRegisters ws)

theorem isFrame_registerResponse (slave func : Byte) (ws : List Half) (hf : func = 0x03#8 ∨ func = 0x04#8)
    (h125 : ws.length ≤ 125) : IsFrame (registerResponse slave func ws) := by
  refine isFrame_read slave func _ _ (by rcases hf with rfl | rfl <;> decide) ?_
  change (registerResponse slave func ws).length = _
  simp [registerResponse]
  omega

/-- The register decoder on as many encoded words as were asked for. -/
theorem finishRegisters_encodeRegisters (s : State) (ws : List Half) (hn : s.act.qty.toNat = ws.length) :
    finishRegisters (encodeRegisters ws) s = completeWith .ok { s with res := writeResults ws s.res, resValid := true } := by
  rw [finishRegisters, hn, decodeRegisters_encodeRegisters]
  rfl

/-- VALIDATE of the answer to a register read of as many words (R256, R257). -/
theorem coreTurn_registerResponse (s : State) (ws : List Half) (hp : s.phase = .validating)
    (hf : s.act.func = 0x03#8 ∨ s.act.func = 0x04#8)
    (hn : s.act.qty.toNat = ws.length) (hrxb : s.rxb = registerResponse s.act.slave s.act.func ws) :
    coreTurn s =
      .next (completeWith .ok { s with crc := crc16 (crcBody s.rxb), res := writeResults ws s.res, resValid := true }) := by
  have h7 : s.act.func.getLsbD 7 = false := by rcases hf with hf | hf <;> rw [hf] <;> rfl
  have hheader : headerLength s.act.func = 3 := by rcases hf with hf | hf <;> rw [hf] <;> rfl
  rw [coreTurn_registerRead s hp hf, validate_response _ s (BitVec.ofNat 8 (2 * ws.length) :: encodeRegisters ws) h7 hrxb,
    hheader]
  exact congrArg Host.Outcome.next (finishRegisters_encodeRegisters { s with crc := crc16 (crcBody s.rxb) } ws hn)

/-- Settles O59: the read passes the check, the answer is a frame, and its VALIDATE writes the words to RES. -/
theorem registerReadTransaction : Obligations.RegisterReadTransaction := by
  intro s f ws polls rest hpar hb hf hfunc hlo hhi hn h1 h125 hline es
  subst hfunc
  have ha : argsOk s.req (valView s) = true := (argsOk_iff _ _).2 ⟨⟨hlo, hhi⟩, .inr (.inl ⟨hf, by omega, by omega⟩)⟩
  have hbody := requestBody_read s.req (valView s) (isRead_of _ (.inr (.inr hf))).1
  have hrun := run_transaction s _ _ polls rest hpar hb ha hline (isFrame_registerResponse _ _ ws hf h125)
    (coreTurn_registerResponse _ ws rfl hf hn rfl)
  refine ⟨_, hrun, rfl, rfl, rfl, rfl, fun i hi => List.getElem?_append_left hi, ?_, ?_, rfl⟩
  · rw [← hbody]; rfl
  · obtain ⟨-, hmax, -⟩ := hpar
    have htimely := hline.timely
    simp only [Config.maxParam] at hmax
    exact (BitVec.toNat_ofNat _ _).trans (Nat.mod_eq_of_lt (by omega))

/-! ## Single writes -/

/-- The two bytes fix the word. -/
theorem be16_inj {v w : Half} (h : be16 v = be16 w) : v = w := by
  simp only [be16, List.cons.injEq] at h
  obtain ⟨hhi, hlo, -⟩ := h
  rw [← word16_extract v, ← word16_extract w, hhi, hlo]

/-- The frame in which a slave echoes a single write with the value `w` (spec/30_encoding.md R86). -/
def singleEcho (slave func : Byte) (addr w : Half) : List Byte := withCrc ([slave, func] ++ be16 addr ++ be16 w)

/-- The write confirmation of an echo of the address with the value `w`: confirmed exactly if `w` was sent (R232). -/
theorem finishWrite_echo (s : State) (w : Half) :
    finishWrite (be16 s.act.addr ++ be16 w) s =
      completeWith (if w = sent s.act then .ok else .writeNotConfirmed) { s with confirmed := decide (w = sent s.act) } := by
  have hecho : echoOk s.act (be16 s.act.addr ++ be16 w) = true ↔ w = sent s.act := by
    rw [echoOk_iff, List.take_of_length_le (by simp), List.append_cancel_left_eq]
    exact ⟨be16_inj, congrArg be16⟩
  by_cases hw : w = sent s.act
  · rw [finishWrite, if_pos (hecho.2 hw), if_pos hw, decide_eq_true hw]
  · rw [finishWrite, if_neg (mt hecho.1 hw), if_neg hw, decide_eq_false hw]

theorem isFrame_singleEcho (slave func : Byte) (addr w : Half) (hf : func = 0x05#8 ∨ func = 0x06#8) :
    IsFrame (singleEcho slave func addr w) := by
  rcases hf with rfl | rfl <;> exact isFrame_echo slave _ _ rfl (by decide) (by simp)

/-- VALIDATE of the echo of a single write (R258, R259). -/
theorem coreTurn_singleEcho (s : State) (w : Half) (hp : s.phase = .validating)
    (hf : s.act.func = 0x05#8 ∨ s.act.func = 0x06#8)
    (hrxb : s.rxb = singleEcho s.act.slave s.act.func s.act.addr w) :
    coreTurn s = .next (completeWith (if w = sent s.act then .ok else .writeNotConfirmed)
      { s with crc := crc16 (crcBody s.rxb), confirmed := decide (w = sent s.act) }) := by
  have h7 : s.act.func.getLsbD 7 = false := by rcases hf with hf | hf <;> rw [hf] <;> rfl
  have hheader : headerLength s.act.func = 2 := by rcases hf with hf | hf <;> rw [hf] <;> rfl
  rw [coreTurn_singleWrite s hp hf, validate_response _ s (be16 s.act.addr ++ be16 w) h7 hrxb, hheader]
  exact congrArg Host.Outcome.next (finishWrite_echo { s with crc := crc16 (crcBody s.rxb) } w)

/-- Settles O60: the write passes the check, the echo is a frame, and its VALIDATE compares the value with the one sent. -/
theorem singleWriteTransaction : Obligations.SingleWriteTransaction := by
  intro s f w polls rest hpar hb hfunc hcases hlo hhi hline wire es
  subst hfunc
  have hf : s.req.func = 0x05#8 ∨ s.req.func = 0x06#8 := hcases.imp_left And.left
  have hsent : sent s.req = wire := sent_eq_ite s.req fun h5 =>
    (hcases.resolve_right fun h6 => absurd (h5.symm.trans h6) (by decide)).2
  have ha : argsOk s.req (valView s) = true :=
    (argsOk_iff _ _).2 ⟨⟨hlo, hhi⟩, .inr (.inr (hcases.imp_right .inl))⟩
  have hrun := run_transaction s _ _ polls rest hpar hb ha hline (isFrame_singleEcho _ _ _ w hf)
    (coreTurn_singleEcho _ w rfl hf rfl)
  rw [← hsent, ← requestBody_single s.req (valView s) hf]
  exact ⟨_, hrun, rfl, rfl, rfl, rfl, rfl, rfl⟩

end Sys2Proof.Machine
end

section
/-! Reset and hazards (spec/70_reset_and_hazards.md): the Core's turn reads neither REQ nor VAL, a WAIT in IDLE goes on for ever,
and a frame under LINE_OK reaches VALIDATE. -/

namespace Sys2Proof.Machine

/-! ## Writes of the Host while busy (R358) -/

/-- `f` neither reads nor writes REQ and VAL. -/
def RequestBlind (f : State → State) : Prop :=
  ∀ s q m, f { s with req := q, val := m } = { f s with req := q, val := m }

theorem send_requestBlind : RequestBlind send := fun _ _ _ => rfl

theorem poll_requestBlind : RequestBlind poll := by
  intro s q m
  rcases closePoll_cases (isComplete (receive s).rxb) (receive s) with ⟨hend, he⟩ | ⟨hopen, hleft, he⟩
  · rw [poll, poll, he]
    exact if_pos (by simpa using hend)
  · rw [poll, poll, he]
    exact if_neg (by simpa using ⟨hopen, hleft⟩)

theorem finishRead_requestBlind (d : Option (List Half)) : RequestBlind (finishRead d) := by
  intro s q m
  cases d with
  | none => rfl
  | some ws => rfl

theorem finishWrite_requestBlind (p : List Byte) : RequestBlind (finishWrite p) := by
  intro s q m
  simp only [finishWrite]
  split <;> rfl

theorem finishUnlisted_requestBlind (p : List Byte) : RequestBlind (finishUnlisted p) := by
  intro s q m
  simp only [finishUnlisted]
  split <;> rfl

/-- VALIDATE reads REQ and VAL in its decoder at most. -/
theorem validate_requestBlind (fin : List Byte → State → State) (h : ∀ p, RequestBlind (fin p)) :
    RequestBlind (validate fin) := by
  intro s q m
  simp only [validate]
  split_ifs
  · rfl
  · rfl
  · rfl
  · rfl
  · rfl
  · exact h _ { s with crc := crc16 (crcBody s.rxb) } q m

/-- The command a request selects is a command of its FUNC. -/
theorem isCommand_of_decodeRequest (r : Request) (i : Instr) (h : decodeRequest r = .ok i) : i.isCommand r.func = true := by
  rcases decodeRequest_cases r i h with ⟨hf, rfl⟩ | ⟨hf, rfl⟩ | ⟨hf, rfl⟩ | ⟨hf, rfl⟩ | ⟨hf, rfl⟩ | ⟨hf, rfl⟩ |
    ⟨hf, rfl⟩ | ⟨hf, rfl⟩ <;> rw [hf] <;> rfl

/-- The VALIDATE of a command reads the active request, and neither REQ nor VAL (spec/10_state.md R40). -/
theorem command_validate_requestBlind (i : Instr) (f : Byte) (hi : i.isCommand f = true) :
    ∃ fin, RequestBlind (validate fin) ∧ ∀ s, s.phase = .validating → exec i s = .next (validate fin s) := by
  obtain ⟨o, fin, hexec, hfin⟩ := command_exec i f hi
  refine ⟨fin, validate_requestBlind fin ?_, fun s hp => by rw [hexec, commandStep_validating _ _ _ hp]⟩
  rcases hfin with ⟨-, rfl⟩ | ⟨-, rfl⟩ | ⟨-, rfl⟩
  · exact fun p s => finishRead_requestBlind (unpackCoils p s.act.qty.toNat) s
  · exact fun p s => finishRead_requestBlind (decodeRegisters p s.act.qty.toNat) s
  · exact finishWrite_requestBlind

/-- PHASE and ACT choose the Core's turn in a busy phase, and whichever they choose neither reads nor writes REQ and VAL. -/
theorem coreTurn_requestBlind (s : State) (hb : s.phase.busy = true) :
    ∃ f, RequestBlind f ∧ ∀ u : State, u.phase = s.phase → u.act = s.act → coreTurn u = .next (f u) := by
  rcases (busy_iff _).1 hb with hp | hp | hp
  · exact ⟨send, send_requestBlind, fun u hu _ => coreTurn_sending u (hu.trans hp)⟩
  · exact ⟨poll, poll_requestBlind, fun u hu _ => coreTurn_awaiting u (hu.trans hp)⟩
  · cases hd : decodeRequest s.act with
    | ok i =>
      obtain ⟨fin, hfin, hexec⟩ := command_validate_requestBlind i _ (isCommand_of_decodeRequest s.act i hd)
      exact ⟨_, hfin, fun u hu hact =>
        (coreTurn_eq_command u i (hu ▸ hb) (hact ▸ hd)).trans (hexec u (hu.trans hp))⟩
    | error e =>
      exact ⟨_, validate_requestBlind _ finishUnlisted_requestBlind, fun u hu hact =>
        coreTurn_unlisted u (hu.trans hp) (hact ▸ decodeRequest_error s.act e hd)⟩

/-- Settles O50: both states have one PHASE and one ACT, so their turns are one operation that is blind to REQ and VAL. -/
theorem busyRequestWritesAreInvisible : Obligations.BusyRequestWritesAreInvisible := by
  intro s t q m hb ht
  obtain ⟨f, hf, hturn⟩ := coreTurn_requestBlind s hb
  cases (hturn s rfl rfl).symm.trans ht
  exact (hturn { s with req := q, val := m } rfl rfl).trans (congrArg _ (hf s q m))

/-! ## A WAIT in IDLE (R344) -/

/-- The events to come hold a WAIT, as the next one or behind one step that is not the Host's, and behind the WAIT more such steps
and then `rest`. -/
inductive WaitPending (rest : List Event) : List Event → Prop
  | next (others : List Event) (ho : ∀ e ∈ others, e.isHost = false) : WaitPending rest (.hostWait :: (others ++ rest))
  | behind (e : Event) (others : List Event) (he : e.isHost = false) (ho : ∀ e ∈ others, e.isHost = false) :
      WaitPending rest (e :: .hostWait :: (others ++ rest))

theorem WaitPending.mem {rest l : List Event} (h : WaitPending rest l) : .hostWait ∈ l := by
  cases h with
  | next => exact List.mem_cons_self
  | behind => exact List.mem_cons_of_mem _ List.mem_cons_self

theorem WaitPending.suffix {rest l : List Event} (h : WaitPending rest l) : rest <:+ l := by
  cases h with
  | next others => exact (List.suffix_append others rest).trans (List.suffix_cons _ _)
  | behind e others =>
    exact ((List.suffix_append others rest).trans (List.suffix_cons _ _)).trans (List.suffix_cons _ _)

/-- A WAIT that finds DONE = 0 is pending again, with the same program of the Host behind it. -/
theorem waitAgain_pending (others rest : List Event) (ho : ∀ e ∈ others, e.isHost = false)
    (hr : ∀ e ∈ rest.head?, e.isHost = true) : WaitPending rest (waitAgain (others ++ rest)) := by
  cases others with
  | cons e others =>
    obtain ⟨he, ho⟩ := List.forall_mem_cons.1 ho
    have hagain : waitAgain (e :: others ++ rest) = e :: .hostWait :: (others ++ rest) := by simp [waitAgain, he]
    exact hagain ▸ .behind e others he ho
  | nil =>
    rcases waitAgain_cases rest with ⟨e, l, rfl, he, -⟩ | ⟨-, hagain⟩
    · exact absurd (hr e rfl) (Bool.eq_false_iff.1 he)
    · rw [List.nil_append, hagain]
      exact .behind .core [] rfl ho

/-- The last word the Host read has DONE = 0. -/
def ReadNotDone (s : State) : Prop := ∃ w, s.hostData = some w ∧ w.getLsbD 3 = false

/-- A WAIT in IDLE, with the Host's program `rest` behind it. -/
structure WaitsInIdle (rest : List Event) (s : State) : Prop where
  idle : s.phase = .idle
  pending : WaitPending rest s.inbox

/-- In IDLE an event of the Line, of the Core or a reset leaves IDLE and what the Host has read. -/
theorem takeEvent_idle (e : Event) (s : State) (he : e.isHost = false) (hp : s.phase = .idle) :
    ∃ t, takeEvent e s = .next t ∧ t.phase = .idle ∧ t.hostData = s.hostData ∧ t.inbox = s.inbox := by
  cases e with
  | hostWrite | hostRead | hostWait => cases he
  | deliver d => exact ⟨deliver d s, rfl, hp, rfl, rfl⟩
  | core => exact ⟨s, coreTurn_rest s (by rw [hp]; rfl), hp, rfl, rfl⟩
  | reset => exact ⟨resetCore s, rfl, rfl, rfl, rfl⟩

/-- A read of WAIT in IDLE finds DONE = 0, and the WAIT stays pending. -/
theorem step_wait_idle (others rest : List Event) (s : State) (hp : s.phase = .idle) (hin : s.inbox = .hostWait :: (others ++ rest))
    (ho : ∀ e ∈ others, e.isHost = false) (hr : ∀ e ∈ rest.head?, e.isHost = true) :
    ∃ t, step s = .next t ∧ WaitsInIdle rest t ∧ ReadNotDone t := by
  have hdone : s.phase.done = false := by rw [hp]; rfl
  refine ⟨_, step_wait (others ++ rest) s hin, ⟨hp, ?_⟩, _, rfl, (statusWord_done s).trans hdone⟩
  simpa [hdone] using waitAgain_pending others rest ho hr

/-- Every step of a WAIT in IDLE that has found DONE = 0 leaves it so. -/
theorem step_waitsInIdle (rest : List Event) (s : State) (hr : ∀ e ∈ rest.head?, e.isHost = true) (h : WaitsInIdle rest s)
    (hread : ReadNotDone s) : ∃ t, step s = .next t ∧ WaitsInIdle rest t ∧ ReadNotDone t := by
  obtain ⟨hp, hpending⟩ := h
  generalize hin : s.inbox = l at hpending
  cases hpending with
  | next others ho => exact step_wait_idle others rest s hp hin ho hr
  | behind e others he ho =>
    obtain ⟨t, ht, htp, hdata, htin⟩ := takeEvent_idle e { s with inbox := .hostWait :: (others ++ rest) } he hp
    exact ⟨t, (step_event s e _ hin).trans ht, ⟨htp, htin ▸ .next others ho⟩, by rwa [ReadNotDone, hdata]⟩

/-- And so does every run. -/
theorem run_waitsInIdle (rest : List Event) (k : Nat) (s : State) (hr : ∀ e ∈ rest.head?, e.isHost = true)
    (h : WaitsInIdle rest s) (hread : ReadNotDone s) : ∃ t, run k s = .next t ∧ WaitsInIdle rest t ∧ ReadNotDone t := by
  induction k generalizing s with
  | zero => exact ⟨s, run_zero s, h, hread⟩
  | succ k ih =>
    obtain ⟨u, hu, huw, huread⟩ := step_waitsInIdle rest s hr h hread
    obtain ⟨t, ht, hend⟩ := ih u huw huread
    exact ⟨t, (run_succ k s u hu).trans ht, hend⟩

/-- Settles O56: the first step reads DONE = 0, and from then on no step ends the WAIT. -/
theorem waitInIdleNeverEnds : Obligations.WaitInIdleNeverEnds := by
  intro s k others rest hp ho hr
  cases k with
  | zero =>
    have hpending : WaitPending rest (.hostWait :: others ++ rest) := .next others ho
    exact ⟨_, run_zero _, hp, hpending.mem, hpending.suffix, nofun⟩
  | succ k =>
    obtain ⟨u, hu, huw, huread⟩ := step_wait_idle others rest { s with inbox := .hostWait :: others ++ rest } hp rfl ho hr
    obtain ⟨t, ht, htw, htread⟩ := run_waitsInIdle rest k u hr huw huread
    exact ⟨t, (run_succ k _ u hu).trans ht, htw.idle, htw.pending.mem, htw.pending.suffix, fun _ => htread⟩

/-! ## The Line premise (R353) -/

/-- Settles O58: it is the run of a schedule under LINE_OK, by induction on its POLLs (`run_polls`). -/
theorem linePremiseDeliversResponse : Obligations.LinePremiseDeliversResponse := run_lineOk

end Sys2Proof.Machine
end
